-- ==== Sys2Proof/Word.lean ====
section
/-! DEFINITION. The word types of the CORE: the 16-bit bus and register width (R6, `WORD`) and the
8-bit memory cell width (R6). All register values are unsigned (R7). -/
namespace Sys2Proof

/-- The width of the bus, of MAR and of the registers PC, IR, A, B and T (R6). -/
abbrev Word := BitVec 16

/-- The width of a memory cell, of SP and of OPC (R6, R20, R24). -/
abbrev Byte := BitVec 8

end Sys2Proof
end

