-- ==== Sys2Proof/Machine/Bits.lean ====
section
/-! DEFINITION. The bit-field helpers of R7 and R8: byte halves, concatenation and zero extension. There is
no sign extension in the hardware (R8). -/
namespace Sys2Proof.Machine

/-- `lo8(v) = v[7:0]` (R8). -/
def lo8 (v : Word) : Byte := v.extractLsb' 0 8

/-- `hi8(v) = v[15:8]` (R8). -/
def hi8 (v : Word) : Byte := v.extractLsb' 8 8

/-- The concatenation of two bytes, `h` in the high bits (R7). -/
def catBytes (h l : Byte) : Word := h ++ l

/-- `zext_16(b)`: the word with the same value (R8). -/
def zext16 (b : Byte) : Word := b.setWidth 16

/-- `v` with bits 7..0 replaced and bits 15..8 kept (R19, latch target TL). -/
def setLo8 (v : Word) (l : Byte) : Word := catBytes (hi8 v) l

/-- `v` with bits 15..8 replaced and bits 7..0 kept (R19, latch target TH). -/
def setHi8 (v : Word) (h : Byte) : Word := catBytes h (lo8 v)

end Sys2Proof.Machine
end

