-- ==== Sys2Proof/Config.lean ====
section
/-! DEFINITION. The configuration of the CORE (R6, R29): the control-word format (R73 to R81), a control
table as plain rows, and the parameters SPLIT, STACK_BASE and TABLE. A configuration is fixed at
construction and is an argument of the pulse, not a field of the state (R29). Its checks are in
WellFormed.lean; the default values are in Machine/Table.lean. The document leaves no value free, so
there is no opaque constant here. -/
namespace Sys2Proof

/-- What can drive the bus (R74): the registers, the memory read port, the ALU output, and the derived
sources SPA (stack address) and PCH (high byte of PC). -/
inductive DriveSource where
  | pc | mar | ir | a | b | t | sp | spa | pch | mem | alu
  deriving DecidableEq, Repr

/-- What can latch the bus (R75): the registers, the two byte halves of T, and the memory write port. -/
inductive LatchTarget where
  | pc | mar | ir | a | b | t | tl | th | sp | mem
  deriving DecidableEq, Repr

/-- The ALU operations (R80). -/
inductive AluOp where
  | add | adc | sub | sbc | and | or | xor | not | shl | shr | inc | dec
  deriving DecidableEq, Repr

/-- The condition that gates the PC latch (R77). -/
inductive Cond where
  | always | c | nc | z | nz
  deriving DecidableEq, Repr

/-- A control word (R73). A field left out has its default: the empty set, false, ALWAYS or none. The two
sets are written as lists; the engine asks them only for membership, or folds them with OR. -/
structure ControlWord where
  drive  : List DriveSource := []
  latch  : List LatchTarget := []
  pcInc  : Bool := false
  spInc  : Bool := false
  spDec  : Bool := false
  cond   : Cond := .always
  aluOp  : Option AluOp := none
  isLast : Bool := false
  halt   : Bool := false
  deriving DecidableEq, Repr

/-- One row of a control table: the control word of an (opcode, step) pair. The step is a plain number, so
that a row outside 2..15 can be written down and refused (R82 item 1). -/
structure TableRow where
  opcode : Byte
  step   : Nat
  word   : ControlWord
  deriving DecidableEq, Repr

/-- A control table (R5): the rows in any order. -/
abbrev ControlTable := List TableRow

/-- `Table(opc, step)` (R73, R87): the control word of a pair, `none` where there is no row.
Of two rows for one pair the first counts; a well-formed table has no two (log entry 8). -/
def ControlTable.row? (table : ControlTable) (opc : Byte) (step : Nat) : Option ControlWord :=
  (table.find? fun r => r.opcode == opc && r.step == step).map TableRow.word

/-- An opcode is defined when it has a row at step 2; every other opcode is unknown (R82 item 3). -/
def ControlTable.defined (table : ControlTable) (opc : Byte) : Bool :=
  (ControlTable.row? table opc 2).isSome

/-- The parameters a model takes as arguments (R6): the first RAM address, the CPU address of stack byte 0,
and the control table. The remaining parameters of R6 are fixed. `debug` has no effect on any state (R162)
and is an argument of construction alone. -/
structure Config where
  split     : Word
  stackBase : Word
  table     : ControlTable
  deriving DecidableEq, Repr

end Sys2Proof
end

