-- ==== Sys2Proof/Syntax.lean ====
section
/-! DEFINITION. The instructions of SIS16-REF (R67): one constructor per row of spec/opcode_table.json,
in the table's order, each carrying the operand its format gives it (R63). -/
namespace Sys2Proof

/-- The 36 instructions of SIS16-REF. An `imm` is the F1 format's byte (R64); an `addr` is the F2
format's little-endian 16-bit CPU address (R65). F0 forms have no operand: their registers are fixed by
the mnemonic (R78). -/
inductive Instr where
  | nop
  | ldiA (imm : Byte)
  | ldiB (imm : Byte)
  | lda (addr : Word)
  | ldb (addr : Word)
  | sta (addr : Word)
  | stb (addr : Word)
  | ldx
  | stx
  | movAB
  | movBA
  | movASp
  | movSpA
  | add
  | adc
  | sub
  | sbc
  | and
  | or
  | xor
  | not
  | shl
  | shr
  | inc
  | dec
  | cmp
  | jmp (addr : Word)
  | jc (addr : Word)
  | jnc (addr : Word)
  | jz (addr : Word)
  | jnz (addr : Word)
  | call (addr : Word)
  | ret
  | pushA
  | popA
  | hlt
  deriving DecidableEq, Repr

end Sys2Proof
end

