-- ==== Sys2Proof/WellFormed.lean ====
section
/-! DEFINITION. Well-formedness: of a control word, of a control table (R82, items 1 to 7), of a whole
configuration (R39, R48, R82), and of an instruction (R69). A model refuses an ill-formed configuration
before a state exists (R166), and never gives one a meaning (R82): construction and the pulse refuse it. -/
namespace Sys2Proof

/-- R82 item 4: the ALU output is driven only with an ALU operation. -/
def ControlWord.aluDriveOk (w : ControlWord) : Bool :=
  !w.drive.contains .alu || w.aluOp.isSome

/-- R82 item 5: T is not latched together with one of its halves. -/
def ControlWord.tLatchOk (w : ControlWord) : Bool :=
  !w.latch.contains .t || (!w.latch.contains .tl && !w.latch.contains .th)

/-- R82 item 6: a PC latch excludes `pc_inc`, and only a PC latch has a condition. -/
def ControlWord.pcOk (w : ControlWord) : Bool :=
  if w.latch.contains .pc then !w.pcInc else w.cond == .always

/-- R82 item 7: an SP latch excludes both SP counters, and the two counters exclude each other. -/
def ControlWord.spOk (w : ControlWord) : Bool :=
  (!w.latch.contains .sp || (!w.spInc && !w.spDec)) && !(w.spInc && w.spDec)

/-- R82 items 4 to 7 for one row. Several drivers, or none, are well-formed (R82, last paragraph). -/
def ControlWord.wellFormed (w : ControlWord) : Bool :=
  w.aluDriveOk && w.tLatchOk && w.pcOk && w.spOk

/-- R82 item 1: rows exist only for the execute steps 2..15. -/
def ControlTable.stepsInRange (table : ControlTable) : Bool :=
  table.all fun r => decide (2 ≤ r.step) && decide (r.step ≤ 15)

/-- The rows of `opc` are exactly the steps 2..k, and of these only row k has `is_last` (R82 item 2). -/
def ControlTable.rowsAre (table : ControlTable) (opc : Byte) (k : Nat) : Bool :=
  (List.range 16).all fun n =>
    match ControlTable.row? table opc n with
    | some w => decide (2 ≤ n) && decide (n ≤ k) && w.isLast == decide (n = k)
    | none => decide (n < 2) || decide (k < n)

/-- R82 item 2: every defined opcode ends in a step k with 2 ≤ k ≤ 15. -/
def ControlTable.terminates (table : ControlTable) : Bool :=
  table.all fun r => r.step != 2 ||
    (List.range 16).any fun k => decide (2 ≤ k) && ControlTable.rowsAre table r.opcode k

/-- `Table` is a function of (opcode, step): no two rows are for the same pair (R73, R87). -/
def ControlTable.functional : ControlTable → Bool
  | [] => true
  | r :: rest =>
    (rest.all fun q => q.opcode != r.opcode || q.step != r.step) && ControlTable.functional rest

/-- R82: a control table the engine has a meaning for. -/
def ControlTable.wellFormed (table : ControlTable) : Bool :=
  ControlTable.stepsInRange table && ControlTable.terminates table &&
    ControlTable.functional table && table.all fun r => r.word.wellFormed

/-- R39: 1 ≤ SPLIT ≤ 0xFFFF (the upper bound is the word's own width). -/
def Config.splitOk (cfg : Config) : Bool := decide (1 ≤ cfg.split.toNat)

/-- R48: SPLIT ≤ STACK_BASE ≤ 0xFF00. -/
def Config.stackBaseOk (cfg : Config) : Bool :=
  decide (cfg.split.toNat ≤ cfg.stackBase.toNat) && decide (cfg.stackBase.toNat ≤ 0xFF00)

/-- The three constraints on the parameters of R6. -/
def Config.wellFormed (cfg : Config) : Bool :=
  cfg.splitOk && cfg.stackBaseOk && ControlTable.wellFormed cfg.table

/-- R69: every value of imm8 and of addr16 is legal and no operand byte has a reserved bit, so every term
of `Instr` is a well-formed instruction; the operand types admit exactly the values the encoding does. -/
def Instr.wellFormed : Instr → Bool
  | .nop | .hlt | .ret | .pushA | .popA | .ldx | .stx => true
  | .ldiA _ | .ldiB _ => true
  | .lda _ | .ldb _ | .sta _ | .stb _ => true
  | .movAB | .movBA | .movASp | .movSpA => true
  | .add | .adc | .sub | .sbc | .and | .or | .xor | .not | .shl | .shr | .inc | .dec | .cmp => true
  | .jmp _ | .jc _ | .jnc _ | .jz _ | .jnz _ | .call _ => true

end Sys2Proof
end

