-- ==== Sys2Proof/Decode.lean ====
section
/-! DEFINITION. The decoder of SIS16-REF's opcode map (R62 to R68), total on any bytes and rejecting by name,
and the encoder, written from the same map. Every byte is either an opcode of R67 or an unknown opcode of
R68 (R69). -/
namespace Sys2Proof

/-- Why bytes are no instruction: an opcode byte of R68, or fewer bytes than the format has (R63). The
machine always has the bytes, since every CPU address reads (R54). -/
inductive DecodeError where
  | unknownOpcode (opcode : Byte)
  | truncated
  deriving DecidableEq, Repr

/-- The F1 format (R63): one immediate byte after the opcode (R64). -/
def decodeImm8 (make : Byte → Instr) : List Byte → Except DecodeError (Instr × List Byte)
  | imm :: rest => .ok (make imm, rest)
  | [] => .error .truncated

/-- The F2 format (R63): the low byte of the address first (R65). -/
def decodeAddr16 (make : Word → Instr) : List Byte → Except DecodeError (Instr × List Byte)
  | lo :: hi :: rest => .ok (make (Machine.catBytes hi lo), rest)
  | _ => .error .truncated

/-- The opcode map of R67; every other opcode byte is unknown (R68). The length follows from the opcode byte
alone (R66). Answers the instruction and the bytes after it. -/
def decode : List Byte → Except DecodeError (Instr × List Byte)
  | [] => .error .truncated
  | op :: rest =>
    match op.toNat with
    | 0x00 => .ok (.nop, rest)
    | 0x01 => decodeImm8 .ldiA rest
    | 0x02 => decodeImm8 .ldiB rest
    | 0x03 => decodeAddr16 .lda rest
    | 0x04 => decodeAddr16 .ldb rest
    | 0x05 => decodeAddr16 .sta rest
    | 0x06 => decodeAddr16 .stb rest
    | 0x07 => .ok (.ldx, rest)
    | 0x08 => .ok (.stx, rest)
    | 0x10 => .ok (.movAB, rest)
    | 0x11 => .ok (.movBA, rest)
    | 0x12 => .ok (.movASp, rest)
    | 0x13 => .ok (.movSpA, rest)
    | 0x20 => .ok (.add, rest)
    | 0x21 => .ok (.adc, rest)
    | 0x22 => .ok (.sub, rest)
    | 0x23 => .ok (.sbc, rest)
    | 0x24 => .ok (.and, rest)
    | 0x25 => .ok (.or, rest)
    | 0x26 => .ok (.xor, rest)
    | 0x27 => .ok (.not, rest)
    | 0x28 => .ok (.shl, rest)
    | 0x29 => .ok (.shr, rest)
    | 0x2A => .ok (.inc, rest)
    | 0x2B => .ok (.dec, rest)
    | 0x2C => .ok (.cmp, rest)
    | 0x30 => decodeAddr16 .jmp rest
    | 0x31 => decodeAddr16 .jc rest
    | 0x32 => decodeAddr16 .jnc rest
    | 0x33 => decodeAddr16 .jz rest
    | 0x34 => decodeAddr16 .jnz rest
    | 0x38 => decodeAddr16 .call rest
    | 0x39 => .ok (.ret, rest)
    | 0x40 => .ok (.pushA, rest)
    | 0x41 => .ok (.popA, rest)
    | 0xFF => .ok (.hlt, rest)
    | _ => .error (.unknownOpcode op)

/-- The opcode byte of each instruction (R67). -/
def opcodeOf : Instr → Byte
  | .nop => 0x00#8
  | .ldiA _ => 0x01#8
  | .ldiB _ => 0x02#8
  | .lda _ => 0x03#8
  | .ldb _ => 0x04#8
  | .sta _ => 0x05#8
  | .stb _ => 0x06#8
  | .ldx => 0x07#8
  | .stx => 0x08#8
  | .movAB => 0x10#8
  | .movBA => 0x11#8
  | .movASp => 0x12#8
  | .movSpA => 0x13#8
  | .add => 0x20#8
  | .adc => 0x21#8
  | .sub => 0x22#8
  | .sbc => 0x23#8
  | .and => 0x24#8
  | .or => 0x25#8
  | .xor => 0x26#8
  | .not => 0x27#8
  | .shl => 0x28#8
  | .shr => 0x29#8
  | .inc => 0x2A#8
  | .dec => 0x2B#8
  | .cmp => 0x2C#8
  | .jmp _ => 0x30#8
  | .jc _ => 0x31#8
  | .jnc _ => 0x32#8
  | .jz _ => 0x33#8
  | .jnz _ => 0x34#8
  | .call _ => 0x38#8
  | .ret => 0x39#8
  | .pushA => 0x40#8
  | .popA => 0x41#8
  | .hlt => 0xFF#8

/-- The operand bytes that follow the opcode (R63): none, the immediate, or the address low byte first. -/
def operandBytes : Instr → List Byte
  | .ldiA imm | .ldiB imm => [imm]
  | .lda addr | .ldb addr | .sta addr | .stb addr => [Machine.lo8 addr, Machine.hi8 addr]
  | .jmp addr | .jc addr | .jnc addr | .jz addr | .jnz addr | .call addr =>
    [Machine.lo8 addr, Machine.hi8 addr]
  | .nop | .ldx | .stx | .movAB | .movBA | .movASp | .movSpA => []
  | .add | .adc | .sub | .sbc | .and | .or | .xor | .not | .shl | .shr | .inc | .dec | .cmp => []
  | .ret | .pushA | .popA | .hlt => []

/-- The bytes of an instruction, at rising addresses (R63). -/
def encode (i : Instr) : List Byte := opcodeOf i :: operandBytes i

/-- The instruction's length in bytes (R67, column "length"). -/
def lengthOf : Instr → Nat
  | .ldiA _ | .ldiB _ => 2
  | .lda _ | .ldb _ | .sta _ | .stb _ => 3
  | .jmp _ | .jc _ | .jnc _ | .jz _ | .jnz _ | .call _ => 3
  | .nop | .ldx | .stx | .movAB | .movBA | .movASp | .movSpA => 1
  | .add | .adc | .sub | .sbc | .and | .or | .xor | .not | .shl | .shr | .inc | .dec | .cmp => 1
  | .ret | .pushA | .popA | .hlt => 1

/-- The longest instruction's bytes (R63: three) of a number whose bits are laid out as the opcode table
numbers them: the first byte in bits 7..0, the next in 15..8. Bits from `nbits` up are 0. -/
def tableWordBytes (nbits w : Nat) : List Byte :=
  let v := w % 2 ^ nbits
  [BitVec.ofNat 8 v, BitVec.ofNat 8 (v / 2 ^ 8), BitVec.ofNat 8 (v / 2 ^ 16)]

/-- The instruction the decoder reads from the bytes of a table word; `none` where it refuses. -/
def decodeTableWord (nbits w : Nat) : Option Instr :=
  match decode (tableWordBytes nbits w) with
  | .ok (i, _) => some i
  | .error _ => none

end Sys2Proof
end

