-- ==== Sys2Proof/Machine/State.lean ====
section
/-! DEFINITION. The state of the CORE (R13), whole and as plain data; the reasons the model can stop; and the
state right after reset (R35). -/
namespace Sys2Proof.Machine

/-- A memory image (R27, R28) as the list of its bytes other than 0x00, by image offset, offsets strictly
rising. An unlisted offset reads as 0x00: RAM is zero-initialised at reset (R28), and an image is padded
with zeros (log entry 3). -/
abbrev Memory := List Host.Cell

/-- The error record FAULT (R13, R26); `None` is `Option.none`. -/
inductive FaultRecord where
  /-- A MEM latch while MAR selects ROM: the address and the byte on the bus (R149). -/
  | illegalWrite (addr : Word) (value : Byte)
  /-- A decode pulse whose IR[7:0] has no row: the opcode and the whole IR (R148). -/
  | unknownOpcode (opcode : Byte) (ir : Word)
  deriving DecidableEq, Repr

/-- Why no machine exists. The faults of a RUNNING machine are not here: the spec says what state they leave
(R86, R100), so they are next states with HALTED and FAULT written (log entry 5). -/
inductive Fault where
  /-- Raised by `State.construct` alone, on an image that is not exactly 65,535 bytes (R150, R165); the
  length found. Safe: there is no state and no pulse. -/
  | invalidImageSize (length : Nat)
  deriving DecidableEq, Repr

/-- Why the model gives no meaning. -/
inductive Refusal where
  /-- Raised by an arm of `exec` that rejects its instruction by name; no arm does so now. Safe. -/
  | notModelled (mnemonic : String)
  /-- Raised by `State.construct` and by `pulse`, on a configuration that breaks R39, R48 or R82 (R166). Safe: the
  spec refuses it too, and never gives it a meaning. -/
  | illFormedConfig
  /-- Raised by an execute pulse whose (OPC, STEP) has no row. Unreachable under a well-formed table, and
  the spec gives such a state no meaning (R108). Safe (log entry 6). -/
  | noControlRow (opcode : Byte) (step : Nat)
  deriving DecidableEq, Repr

/-- The machine state (R13). C, Z and HALTED are bits. -/
structure State where
  pc        : Word
  mar       : Word
  ir        : Word
  a         : Word
  b         : Word
  t         : Word
  sp        : Byte
  c         : Bool
  z         : Bool
  stepCount : BitVec 4
  opc       : Byte
  halted    : Bool
  fault     : Option FaultRecord
  rom       : Memory
  ram       : Memory
  deriving DecidableEq, Repr

/-- The construction state over a ROM image (R35, R166): every register, flag and RAM byte zero. -/
def State.ofRom (rom : Memory) : State :=
  { pc := 0#16, mar := 0#16, ir := 0#16, a := 0#16, b := 0#16, t := 0#16, sp := 0#8, c := false, z := false
    stepCount := 0#4, opc := 0#8, halted := false, fault := none, rom := rom, ram := [] }

/-- The machine right after reset (R35), over the all-zero image: a program's image is supplied from outside
(log entry 2). -/
def State.reset : State := State.ofRom []

end Sys2Proof.Machine
end

