-- ==== Sys2Proof/Machine/Flags.lean ====
section
/-! DEFINITION. The ALU and the flag unit: every operation's result and carry (R95, R96), the flag update
(R94), and the condition gate that reads the flags (R91). -/
namespace Sys2Proof.Machine

/-- The outputs of the ALU (R95): the 16-bit result and the carry-out bit. -/
structure AluOut where
  result   : Word
  carryOut : Bool
  deriving DecidableEq, Repr

/-- `r = s mod 2^16` and `carry_out = (s >= 2^16)` of an exact sum `s` (R96). -/
def aluOfSum (s : Nat) : AluOut := { result := BitVec.ofNat 16 s, carryOut := decide (2 ^ 16 ≤ s) }

/-- The ALU on `a`, `b` and the carry in (R95), operation by operation (R96). A carry of 1 from a
subtraction means no borrow; a logic operation passes the carry in through. -/
def alu (op : AluOp) (a b : Word) (cin : Bool) : AluOut :=
  match op with
  | .add => aluOfSum (a.toNat + b.toNat)
  | .adc => aluOfSum (a.toNat + b.toNat + cin.toNat)
  | .sub => aluOfSum (a.toNat + (~~~b).toNat + 1)
  | .sbc => aluOfSum (a.toNat + (~~~b).toNat + cin.toNat)
  | .and => { result := a &&& b, carryOut := cin }
  | .or => { result := a ||| b, carryOut := cin }
  | .xor => { result := a ^^^ b, carryOut := cin }
  | .not => { result := ~~~a, carryOut := cin }
  | .shl => { result := BitVec.ofNat 16 (2 * a.toNat), carryOut := a.getLsbD 15 }
  | .shr => { result := BitVec.ofNat 16 (a.toNat / 2), carryOut := a.getLsbD 0 }
  | .inc => aluOfSum (a.toNat + 1)
  | .dec => aluOfSum (a.toNat + 0xFFFF)

/-- The ALU's outputs in a state: its inputs are A, B and C (R95). -/
def State.aluOut (s : State) (op : AluOp) : AluOut := alu op s.a s.b s.c

/-- Phase 4 in an ALU-tagged pulse (R94): C takes the carry, Z whether the ALU result is zero. -/
def State.withFlags (s : State) (out : AluOut) : State :=
  { s with c := out.carryOut, z := decide (out.result = 0#16) }

/-- The condition gate (R91), on the flags at the start of the pulse. -/
def condHolds (cond : Cond) (c z : Bool) : Bool :=
  match cond with
  | .always => true
  | .c => c
  | .nc => !c
  | .z => z
  | .nz => !z

end Sys2Proof.Machine
end

