-- ==== Sys2Proof/Machine/Memory.lean ====
section
/-! DEFINITION. A memory image as a canonical list of cells: reading, writing, its form, and the image of a
list of bytes. Nothing here knows of CPU addresses; Ops.lean decodes them. -/
namespace Sys2Proof.Machine

/-- The number of bytes in each image (R27, R28; 90_conflicts.md C3). -/
def imageSize : Nat := 65535

/-- The byte at an image offset; an unlisted offset reads as 0x00. -/
def readCell : Memory → Nat → Byte
  | [], _ => 0#8
  | (k, v) :: rest, off => if k = off then v else readCell rest off

/-- The image with one byte replaced, in canonical form: writing 0x00 unlists the offset. -/
def writeCell : Memory → Nat → Byte → Memory
  | [], off, v => if v = 0#8 then [] else [(off, v)]
  | (k, w) :: rest, off, v =>
    if off < k then (if v = 0#8 then (k, w) :: rest else (off, v) :: (k, w) :: rest)
    else if off = k then (if v = 0#8 then rest else (off, v) :: rest)
    else (k, w) :: writeCell rest off v

/-- The canonical form from an offset up: offsets strictly rising from `lo`, none past the image, no
listed 0x00. -/
def Memory.wfFrom : Nat → Memory → Bool
  | _, [] => true
  | lo, (k, v) :: rest =>
    decide (lo ≤ k) && decide (k < imageSize) && v != 0#8 && Memory.wfFrom (k + 1) rest

/-- The canonical form of an image. -/
def Memory.wf (m : Memory) : Bool := Memory.wfFrom 0 m

/-- The cells of consecutive bytes from an offset up, 0x00 bytes unlisted. -/
def Memory.cellsFrom : Nat → List Byte → Memory
  | _, [] => []
  | off, v :: rest =>
    if v = 0#8 then Memory.cellsFrom (off + 1) rest else (off, v) :: Memory.cellsFrom (off + 1) rest

/-- The image whose byte at each offset is that of the list (R166: "byte for byte"). -/
def Memory.ofBytes (bytes : List Byte) : Memory := Memory.cellsFrom 0 bytes

end Sys2Proof.Machine
end

