-- ==== Sys2Proof/Machine/Ops.lean ====
section
/-! DEFINITION. The operations over memory and the sequencer that pulses and instructions share: address
decode (R38), the byte ports (R40 to R42), the stack address (R47), raising a fault (R147) and the one way
out of it (R168), and the return to fetch (R98). -/
namespace Sys2Proof.Machine

/-- The two storage spaces (R37). -/
inductive Space where
  | rom
  | ram
  deriving DecidableEq, Repr

/-- `Decode(addr)` (R38): the space and the offset in its image. -/
def decodeAddress (cfg : Config) (addr : Word) : Space × Nat :=
  if addr.toNat < cfg.split.toNat then (.rom, addr.toNat)
  else (.ram, addr.toNat - cfg.split.toNat)

/-- `MemRead(addr, 1)` (R9, R38): reading any address is legal and changes nothing (R53, R54). -/
def memRead (cfg : Config) (s : State) (addr : Word) : Byte :=
  match decodeAddress cfg addr with
  | (.rom, off) => readCell s.rom off
  | (.ram, off) => readCell s.ram off

/-- `MemWrite(addr, 1, value)` (R9): the state with the RAM byte written (R41), or `none` where the address
selects ROM and the write is rejected (R42). -/
def memWrite (cfg : Config) (s : State) (addr : Word) (value : Byte) : Option State :=
  match decodeAddress cfg addr with
  | (.rom, _) => none
  | (.ram, off) => some { s with ram := writeCell s.ram off value }

/-- A byte placed in whichever image an address selects, without write protection. No pulse does this: it
stands for what the host puts in an image before a run (log entry 2). -/
def placeByte (cfg : Config) (s : State) (addr : Word) (value : Byte) : State :=
  match decodeAddress cfg addr with
  | (.rom, off) => { s with rom := writeCell s.rom off value }
  | (.ram, off) => { s with ram := writeCell s.ram off value }

/-- `SPA = (STACK_BASE + zext_16(SP)) mod 2^16` (R47). -/
def stackAddress (cfg : Config) (sp : Byte) : Word := cfg.stackBase + zext16 sp

/-- Raising a fault (R147): HALTED is set and FAULT records the kind and its values. Nothing is saved, no
mode changes, no vector is taken (R154); STEP stays (R86, R100). -/
def takeFault (record : FaultRecord) (s : State) : State :=
  { s with halted := true, fault := some record }

/-- External reset (R168), the only exit from a halt (R156): the construction state with the same ROM. The
host's action between pulses; no instruction causes it. -/
def State.externalReset (s : State) : State := State.ofRom s.rom

/-- The numbering of the fault kinds (R147). -/
def faultCode : Option FaultRecord → Nat
  | none => 0
  | some (.unknownOpcode _ _) => 1
  | some (.illegalWrite _ _) => 2

/-- The return to fetch after a row with `is_last` (R98). -/
def finish (s : State) : State := { s with stepCount := 0#4 }

/-- The write port at an instruction's step `k` (R41, R42, R100): the byte is stored at MAR and the
instruction goes on with `go`, or the write selects ROM and the machine halts at step `k` with an
IllegalWrite of MAR and the byte. -/
def storeAtMar (cfg : Config) (k : BitVec 4) (value : Byte) (s : State) (go : State → State) : State :=
  match memWrite cfg s s.mar value with
  | some s' => go s'
  | none => takeFault (.illegalWrite s.mar value) { s with stepCount := k }

end Sys2Proof.Machine
end

