-- ==== Sys2Proof/Machine/Alu.lean ====
section
/-! DEFINITION. The ALU instructions (R121 to R133): one ALU-tagged pulse each, the result to A except for
CMP. -/
namespace Sys2Proof.Machine

/-- The generic row of 43_alu.md: A takes the result, C and Z follow the ALU (R94). -/
def aluToAccumulator (op : AluOp) (s : State) : Host.Outcome State Fault Refusal :=
  .next (finish ({ s with a := (s.aluOut op).result }.withFlags (s.aluOut op)))

/-- R121. -/
def execAdd (s : State) : Host.Outcome State Fault Refusal := aluToAccumulator .add s

/-- R122. -/
def execAdc (s : State) : Host.Outcome State Fault Refusal := aluToAccumulator .adc s

/-- R123. -/
def execSub (s : State) : Host.Outcome State Fault Refusal := aluToAccumulator .sub s

/-- R124. -/
def execSbc (s : State) : Host.Outcome State Fault Refusal := aluToAccumulator .sbc s

/-- R125. -/
def execAnd (s : State) : Host.Outcome State Fault Refusal := aluToAccumulator .and s

/-- R126. -/
def execOr (s : State) : Host.Outcome State Fault Refusal := aluToAccumulator .or s

/-- R127. -/
def execXor (s : State) : Host.Outcome State Fault Refusal := aluToAccumulator .xor s

/-- R128. -/
def execNot (s : State) : Host.Outcome State Fault Refusal := aluToAccumulator .not s

/-- R129. -/
def execShl (s : State) : Host.Outcome State Fault Refusal := aluToAccumulator .shl s

/-- R130. -/
def execShr (s : State) : Host.Outcome State Fault Refusal := aluToAccumulator .shr s

/-- R131. -/
def execInc (s : State) : Host.Outcome State Fault Refusal := aluToAccumulator .inc s

/-- R132. -/
def execDec (s : State) : Host.Outcome State Fault Refusal := aluToAccumulator .dec s

/-- R133: the flags of SUB, the result discarded. -/
def execCmp (s : State) : Host.Outcome State Fault Refusal :=
  .next (finish (s.withFlags (s.aluOut .sub)))

end Sys2Proof.Machine
end

