-- ==== Sys2Proof/Machine/Operands.lean ====
section
/-! DEFINITION. Where values come from and go to. For the pulse: what each source drives (R89), the bus (R88)
and what each target latches (R90 to R92). For whole instructions: the operand forms F1 and F2, as the state
after the rows that read them (R64, R65, R72). -/
namespace Sys2Proof.Machine

/-- The result on the ALU drive source (R89). A well-formed row that drives ALU has an operation (R82 item
4); without one, which no accepted table holds, 0 stands here (log entry 7). -/
def aluDrive (w : ControlWord) (s : State) : Word :=
  match w.aluOp with
  | some op => (s.aluOut op).result
  | none => 0#16

/-- `Src(d)` (R89): the value a drive source puts on the bus, from the state at the start of the pulse. -/
def sourceValue (cfg : Config) (w : ControlWord) (s : State) : DriveSource → Word
  | .pc => s.pc
  | .mar => s.mar
  | .ir => s.ir
  | .a => s.a
  | .b => s.b
  | .t => s.t
  | .sp => zext16 s.sp
  | .spa => stackAddress cfg s.sp
  | .pch => zext16 (hi8 s.pc)
  | .mem => zext16 (memRead cfg s s.mar)
  | .alu => aluDrive w s

/-- The OR of the values of a list of sources; 0x0000 for none (R88). -/
def orOfSources (value : DriveSource → Word) : List DriveSource → Word
  | [] => 0#16
  | d :: rest => value d ||| orOfSources value rest

/-- Phase 2, bus arbitration (R88). -/
def busValue (cfg : Config) (w : ControlWord) (s : State) : Word :=
  orOfSources (sourceValue cfg w s) w.drive

/-- PC after phase 3: the gated latch (R90, R91), else the counter (R92). -/
def nextPc (w : ControlWord) (bus : Word) (s : State) : Word :=
  if .pc ∈ w.latch then (if condHolds w.cond s.c s.z then bus else s.pc)
  else if w.pcInc then s.pc + 1#16 else s.pc

/-- SP after phase 3: the latch of bus[7:0] (R90), else a counter modulo 2^8 (R92). -/
def nextSp (w : ControlWord) (bus : Word) (s : State) : Byte :=
  if .sp ∈ w.latch then lo8 bus
  else if w.spInc then s.sp + 1#8
  else if w.spDec then s.sp - 1#8
  else s.sp

/-- T after phase 3: the whole word, or either half, or both (R90). -/
def nextT (w : ControlWord) (bus : Word) (s : State) : Word :=
  if .t ∈ w.latch then bus
  else
    let low := if .tl ∈ w.latch then setLo8 s.t (lo8 bus) else s.t
    if .th ∈ w.latch then setHi8 low (lo8 bus) else low

/-- Phase 3 for the registers (R90, R92): all latches and counters at once, from the one bus value and the
state at the start of the pulse. The memory write port is `executePulse`'s. -/
def latchRegisters (w : ControlWord) (bus : Word) (s : State) : State :=
  { s with
    pc := nextPc w bus s
    mar := if .mar ∈ w.latch then bus else s.mar
    ir := if .ir ∈ w.latch then bus else s.ir
    a := if .a ∈ w.latch then bus else s.a
    b := if .b ∈ w.latch then bus else s.b
    t := nextT w bus s
    sp := nextSp w bus s }

/-- After the rows that read an F1 operand, with PC at the operand byte: MAR holds its address and PC is past
it (R72, R109). -/
def readImm8 (s : State) : State := { s with mar := s.pc, pc := s.pc + 1#16 }

/-- After the rows that read an F2 operand, with PC at its low byte: T holds the address operand, MAR the
address of its high byte, and PC is past it (R65, R72; 44_control.md, "After step 5"). -/
def readAddr16 (addr : Word) (s : State) : State :=
  { s with t := addr, mar := s.pc + 1#16, pc := s.pc + 2#16 }

end Sys2Proof.Machine
end

