-- ==== Sys2Proof/Machine/Table.lean ====
section
/-! DEFINITION. SIS16-REF, the reference control table (R5, R67), row by row from the instruction rules of
41_load_store.md to 46_system.md, and the default configuration (R6). The rows are normative (R12). -/
namespace Sys2Proof.Machine.Ref

/-- The row `PC / MAR`: an operand byte's address (R72). -/
def pcToMar : ControlWord := { drive := [.pc], latch := [.mar] }

/-- Steps 2 to 5 of the F2 instructions: the operand into T, low byte first (R111, R135). -/
def operandRows : List ControlWord :=
  [pcToMar, { drive := [.mem], latch := [.tl], pcInc := true },
   pcToMar, { drive := [.mem], latch := [.th], pcInc := true }]

/-- The row `T / MAR` of the absolute mode (R111). -/
def tToMar : ControlWord := { drive := [.t], latch := [.mar] }

/-- The row `SPA / MAR` of the stack accesses (R47). -/
def spaToMar : ControlWord := { drive := [.spa], latch := [.mar] }

/-- The generic row of 43_alu.md: `ALU / A` with an operation. -/
def aluToA (op : AluOp) : ControlWord :=
  { drive := [.alu], latch := [.a], aluOp := some op, isLast := true }

/-- A last row that moves one register over the bus (42_move.md). -/
def lastMove (source : DriveSource) (target : LatchTarget) : ControlWord :=
  { drive := [source], latch := [target], isLast := true }

/-- The last row of a jump: `T / PC` under a condition (R135 to R139). -/
def lastJump (cond : Cond) : ControlWord :=
  { drive := [.t], latch := [.pc], cond := cond, isLast := true }

/-- R145. -/
def nop : List ControlWord := [{ isLast := true }]
/-- R109. -/
def ldiA : List ControlWord :=
  [pcToMar, { drive := [.mem], latch := [.a], pcInc := true, isLast := true }]
/-- R110. -/
def ldiB : List ControlWord :=
  [pcToMar, { drive := [.mem], latch := [.b], pcInc := true, isLast := true }]
/-- R111. -/
def lda : List ControlWord := operandRows ++ [tToMar, lastMove .mem .a]
/-- R112. -/
def ldb : List ControlWord := operandRows ++ [tToMar, lastMove .mem .b]
/-- R113. -/
def sta : List ControlWord := operandRows ++ [tToMar, lastMove .a .mem]
/-- R114. -/
def stb : List ControlWord := operandRows ++ [tToMar, lastMove .b .mem]
/-- R115. -/
def ldx : List ControlWord := [{ drive := [.b], latch := [.mar] }, lastMove .mem .a]
/-- R116. -/
def stx : List ControlWord := [{ drive := [.b], latch := [.mar] }, lastMove .a .mem]
/-- R117. -/
def movAB : List ControlWord := [lastMove .b .a]
/-- R118. -/
def movBA : List ControlWord := [lastMove .a .b]
/-- R119. -/
def movASp : List ControlWord := [lastMove .sp .a]
/-- R120. -/
def movSpA : List ControlWord := [lastMove .a .sp]
/-- R121. -/
def add : List ControlWord := [aluToA .add]
/-- R122. -/
def adc : List ControlWord := [aluToA .adc]
/-- R123. -/
def sub : List ControlWord := [aluToA .sub]
/-- R124. -/
def sbc : List ControlWord := [aluToA .sbc]
/-- R125. -/
def and : List ControlWord := [aluToA .and]
/-- R126. -/
def or : List ControlWord := [aluToA .or]
/-- R127. -/
def xor : List ControlWord := [aluToA .xor]
/-- R128. -/
def not : List ControlWord := [aluToA .not]
/-- R129. -/
def shl : List ControlWord := [aluToA .shl]
/-- R130. -/
def shr : List ControlWord := [aluToA .shr]
/-- R131. -/
def inc : List ControlWord := [aluToA .inc]
/-- R132. -/
def dec : List ControlWord := [aluToA .dec]
/-- R133: no drive and no latch. -/
def cmp : List ControlWord := [{ aluOp := some .sub, isLast := true }]
/-- R135. -/
def jmp : List ControlWord := operandRows ++ [lastJump .always]
/-- R136. -/
def jc : List ControlWord := operandRows ++ [lastJump .c]
/-- R137. -/
def jnc : List ControlWord := operandRows ++ [lastJump .nc]
/-- R138. -/
def jz : List ControlWord := operandRows ++ [lastJump .z]
/-- R139. -/
def jnz : List ControlWord := operandRows ++ [lastJump .nz]
/-- R140: step 5 also decrements SP. -/
def call : List ControlWord :=
  [pcToMar, { drive := [.mem], latch := [.tl], pcInc := true },
   pcToMar, { drive := [.mem], latch := [.th], pcInc := true, spDec := true },
   spaToMar, { drive := [.pch], latch := [.mem], spDec := true },
   spaToMar, { drive := [.pc], latch := [.mem] },
   lastJump .always]
/-- R141. -/
def ret : List ControlWord :=
  [spaToMar, { drive := [.mem], latch := [.tl], spInc := true },
   spaToMar, { drive := [.mem], latch := [.th], spInc := true },
   lastJump .always]
/-- R143. -/
def pushA : List ControlWord := [{ spDec := true }, spaToMar, lastMove .a .mem]
/-- R144. -/
def popA : List ControlWord :=
  [spaToMar, { drive := [.mem], latch := [.a], spInc := true, isLast := true }]
/-- R146. -/
def hlt : List ControlWord := [{ halt := true, isLast := true }]

/-- Control words as the rows of one opcode at consecutive steps. -/
def rowsFrom (opc : Byte) : Nat → List ControlWord → ControlTable
  | _, [] => []
  | step, w :: rest => { opcode := opc, step := step, word := w } :: rowsFrom opc (step + 1) rest

/-- The execute rows of an opcode: they begin at step 2 (R12). -/
def rows (opc : Byte) (words : List ControlWord) : ControlTable := rowsFrom opc 2 words

/-- NOP, the load and store rows, and the moves. -/
def loadStoreMoveTable : ControlTable :=
  rows 0x00#8 nop ++ rows 0x01#8 ldiA ++ rows 0x02#8 ldiB ++ rows 0x03#8 lda ++ rows 0x04#8 ldb ++
  rows 0x05#8 sta ++ rows 0x06#8 stb ++ rows 0x07#8 ldx ++ rows 0x08#8 stx ++
  rows 0x10#8 movAB ++ rows 0x11#8 movBA ++ rows 0x12#8 movASp ++ rows 0x13#8 movSpA

/-- The ALU rows. -/
def aluTable : ControlTable :=
  rows 0x20#8 add ++ rows 0x21#8 adc ++ rows 0x22#8 sub ++ rows 0x23#8 sbc ++ rows 0x24#8 and ++
  rows 0x25#8 or ++ rows 0x26#8 xor ++ rows 0x27#8 not ++ rows 0x28#8 shl ++ rows 0x29#8 shr ++
  rows 0x2A#8 inc ++ rows 0x2B#8 dec ++ rows 0x2C#8 cmp

/-- The control-transfer rows, the stack rows and HLT. -/
def controlStackTable : ControlTable :=
  rows 0x30#8 jmp ++ rows 0x31#8 jc ++ rows 0x32#8 jnc ++ rows 0x33#8 jz ++ rows 0x34#8 jnz ++
  rows 0x38#8 call ++ rows 0x39#8 ret ++ rows 0x40#8 pushA ++ rows 0x41#8 popA ++ rows 0xFF#8 hlt

/-- SIS16-REF (R67). -/
def table : ControlTable := loadStoreMoveTable ++ aluTable ++ controlStackTable

/-- The default configuration (R6): SPLIT = 0x8000, STACK_BASE = 0xFF00, TABLE = SIS16-REF. `exec` and
`step` run under it (log entry 4); the pulse takes any. -/
def config : Config := { split := 0x8000#16, stackBase := 0xFF00#16, table := table }

end Sys2Proof.Machine.Ref
end

