-- ==== Sys2Proof/Machine/Control.lean ====
section
/-! DEFINITION. The control-transfer instructions (R135 to R141). Targets are absolute and any byte address;
no flag changes. -/
namespace Sys2Proof.Machine

/-- The shared shape of the jumps: the operand rows run whether the jump is taken or not, then PC latches T
under the condition (R91, R135 to R139). -/
def jumpWhen (cond : Cond) (target : Word) (s : State) : Host.Outcome State Fault Refusal :=
  .next (finish { readAddr16 target s with
    pc := if condHolds cond s.c s.z then target else s.pc + 2#16 })

/-- R135. -/
def execJmp (target : Word) (s : State) : Host.Outcome State Fault Refusal := jumpWhen .always target s

/-- R136. -/
def execJc (target : Word) (s : State) : Host.Outcome State Fault Refusal := jumpWhen .c target s

/-- R137. -/
def execJnc (target : Word) (s : State) : Host.Outcome State Fault Refusal := jumpWhen .nc target s

/-- R138. -/
def execJz (target : Word) (s : State) : Host.Outcome State Fault Refusal := jumpWhen .z target s

/-- R139. -/
def execJnz (target : Word) (s : State) : Host.Outcome State Fault Refusal := jumpWhen .nz target s

/-- R140: the return address is the PC past the operand; its high byte is stored at SP - 1 (step 7), then its
low byte at SP - 2 (step 9). The stores are the engine's, so a configuration whose stack reached into ROM
would halt there; R48 excludes it. -/
def execCall (target : Word) (s : State) : Host.Outcome State Fault Refusal :=
  let operand := readAddr16 target s
  let high := { operand with mar := stackAddress Ref.config (s.sp - 1#8), sp := s.sp - 1#8 - 1#8 }
  .next (storeAtMar Ref.config 7#4 (hi8 high.pc) high fun pushed =>
    storeAtMar Ref.config 9#4 (lo8 pushed.pc)
      { pushed with mar := stackAddress Ref.config pushed.sp } fun s' =>
        finish { s' with pc := s'.t })

/-- R141: low byte at SP, high byte at SP + 1. -/
def execRet (s : State) : Host.Outcome State Fault Refusal :=
  let lo := memRead Ref.config s (stackAddress Ref.config s.sp)
  let hi := memRead Ref.config s (stackAddress Ref.config (s.sp + 1#8))
  .next (finish { s with
    t := catBytes hi lo
    sp := s.sp + 1#8 + 1#8
    mar := stackAddress Ref.config (s.sp + 1#8)
    pc := catBytes hi lo })

end Sys2Proof.Machine
end

