-- ==== Sys2Proof/Machine/LoadStore.lean ====
section
/-! DEFINITION. The load and store instructions (R109 to R116): the net effect of each from the state its
fetch and decode leave, with PC at the byte after the opcode. They equal the rows of Table.lean run on the
engine; OBLIGATIONS.json states so. -/
namespace Sys2Proof.Machine

/-- R109. The operand byte's value comes from the decoder, which read it at PC. -/
def execLdiA (imm : Byte) (s : State) : Host.Outcome State Fault Refusal :=
  .next (finish { readImm8 s with a := zext16 imm })

/-- R110. -/
def execLdiB (imm : Byte) (s : State) : Host.Outcome State Fault Refusal :=
  .next (finish { readImm8 s with b := zext16 imm })

/-- The absolute mode (R111 to R114): T and MAR hold the effective address. -/
def absoluteMode (addr : Word) (s : State) : State := { readAddr16 addr s with mar := addr }

/-- The register-indirect mode (R115, R116): MAR holds B, which is not modified. -/
def indirectMode (s : State) : State := { s with mar := s.b }

/-- R111. -/
def execLda (addr : Word) (s : State) : Host.Outcome State Fault Refusal :=
  .next (finish { absoluteMode addr s with a := zext16 (memRead Ref.config s addr) })

/-- R112. -/
def execLdb (addr : Word) (s : State) : Host.Outcome State Fault Refusal :=
  .next (finish { absoluteMode addr s with b := zext16 (memRead Ref.config s addr) })

/-- R113: the low byte of A; a ROM address halts at step 7. -/
def execSta (addr : Word) (s : State) : Host.Outcome State Fault Refusal :=
  .next (storeAtMar Ref.config 7#4 (lo8 s.a) (absoluteMode addr s) finish)

/-- R114: the low byte of B; a ROM address halts at step 7. -/
def execStb (addr : Word) (s : State) : Host.Outcome State Fault Refusal :=
  .next (storeAtMar Ref.config 7#4 (lo8 s.b) (absoluteMode addr s) finish)

/-- R115. -/
def execLdx (s : State) : Host.Outcome State Fault Refusal :=
  .next (finish { indirectMode s with a := zext16 (memRead Ref.config s s.b) })

/-- R116: the low byte of A; a ROM address halts at step 3. -/
def execStx (s : State) : Host.Outcome State Fault Refusal :=
  .next (storeAtMar Ref.config 3#4 (lo8 s.a) (indirectMode s) finish)

end Sys2Proof.Machine
end

