-- ==== Sys2Proof/Machine/Move.lean ====
section
/-! DEFINITION. The register moves (R117 to R120), each one bus transfer; no flag changes. -/
namespace Sys2Proof.Machine

/-- R117. -/
def execMovAB (s : State) : Host.Outcome State Fault Refusal := .next (finish { s with a := s.b })

/-- R118. -/
def execMovBA (s : State) : Host.Outcome State Fault Refusal := .next (finish { s with b := s.a })

/-- R119: zero-extended. -/
def execMovASp (s : State) : Host.Outcome State Fault Refusal :=
  .next (finish { s with a := zext16 s.sp })

/-- R120: the low byte. -/
def execMovSpA (s : State) : Host.Outcome State Fault Refusal :=
  .next (finish { s with sp := lo8 s.a })

end Sys2Proof.Machine
end

