-- ==== Sys2Proof/Machine/Stack.lean ====
section
/-! DEFINITION. The stack instructions (R143, R144): one byte, full-descending, SP modulo 2^8 (R49). -/
namespace Sys2Proof.Machine

/-- R143: SP is decremented first, then the low byte of A is stored at the new stack address (step 4). -/
def execPushA (s : State) : Host.Outcome State Fault Refusal :=
  .next (storeAtMar Ref.config 4#4 (lo8 s.a)
    { s with sp := s.sp - 1#8, mar := stackAddress Ref.config (s.sp - 1#8) } finish)

/-- R144: the byte at the stack address, zero-extended; then SP is incremented. The byte stays in memory. -/
def execPopA (s : State) : Host.Outcome State Fault Refusal :=
  .next (finish { s with
    mar := stackAddress Ref.config s.sp
    a := zext16 (memRead Ref.config s (stackAddress Ref.config s.sp))
    sp := s.sp + 1#8 })

end Sys2Proof.Machine
end

