-- ==== Sys2Proof/Machine/System.lean ====
section
/-! DEFINITION. The system instructions NOP and HLT (R145, R146). -/
namespace Sys2Proof.Machine

/-- R145: nothing beyond the fetch and the decode. -/
def execNop (s : State) : Host.Outcome State Fault Refusal := .next (finish s)

/-- R146: HALTED is set, FAULT stays, and STEP stays at the step of the row (R98, R99). -/
def execHlt (s : State) : Host.Outcome State Fault Refusal := .next { s with halted := true }

end Sys2Proof.Machine
end

