-- ==== Sys2Proof/Machine/Dispatch.lean ====
section
/-! DEFINITION. What each instruction does, from the state its fetch and decode pulses leave: one arm per
constructor of Instr, each one call of its meaning. -/
namespace Sys2Proof.Machine

/-- The meaning of an instruction after its decode (R85): PC is at the byte after the opcode.
It answers for every other state too (log entry 10). -/
def exec (i : Instr) (s : State) : Host.Outcome State Fault Refusal :=
  match i with
  | .nop => Sys2Proof.Machine.execNop s
  | .ldiA imm => Sys2Proof.Machine.execLdiA imm s
  | .ldiB imm => Sys2Proof.Machine.execLdiB imm s
  | .lda addr => Sys2Proof.Machine.execLda addr s
  | .ldb addr => Sys2Proof.Machine.execLdb addr s
  | .sta addr => Sys2Proof.Machine.execSta addr s
  | .stb addr => Sys2Proof.Machine.execStb addr s
  | .ldx => Sys2Proof.Machine.execLdx s
  | .stx => Sys2Proof.Machine.execStx s
  | .movAB => Sys2Proof.Machine.execMovAB s
  | .movBA => Sys2Proof.Machine.execMovBA s
  | .movASp => Sys2Proof.Machine.execMovASp s
  | .movSpA => Sys2Proof.Machine.execMovSpA s
  | .add => Sys2Proof.Machine.execAdd s
  | .adc => Sys2Proof.Machine.execAdc s
  | .sub => Sys2Proof.Machine.execSub s
  | .sbc => Sys2Proof.Machine.execSbc s
  | .and => Sys2Proof.Machine.execAnd s
  | .or => Sys2Proof.Machine.execOr s
  | .xor => Sys2Proof.Machine.execXor s
  | .not => Sys2Proof.Machine.execNot s
  | .shl => Sys2Proof.Machine.execShl s
  | .shr => Sys2Proof.Machine.execShr s
  | .inc => Sys2Proof.Machine.execInc s
  | .dec => Sys2Proof.Machine.execDec s
  | .cmp => Sys2Proof.Machine.execCmp s
  | .jmp addr => Sys2Proof.Machine.execJmp addr s
  | .jc addr => Sys2Proof.Machine.execJc addr s
  | .jnc addr => Sys2Proof.Machine.execJnc addr s
  | .jz addr => Sys2Proof.Machine.execJz addr s
  | .jnz addr => Sys2Proof.Machine.execJnz addr s
  | .call addr => Sys2Proof.Machine.execCall addr s
  | .ret => Sys2Proof.Machine.execRet s
  | .pushA => Sys2Proof.Machine.execPushA s
  | .popA => Sys2Proof.Machine.execPopA s
  | .hlt => Sys2Proof.Machine.execHlt s

end Sys2Proof.Machine
end

