-- ==== Sys2Proof/Machine/Engine.lean ====
section
/-! DEFINITION. The engine of 40_datapath.md: one clock pulse under any well-formed configuration (R103, R107),
repeated pulses, and the pulses that finish an instruction (R102). The spec's `step()` is `pulse`; `Machine.step` of
Step.lean is a whole instruction (log entry 1). -/
namespace Sys2Proof.Machine

/-- Step 0, fetch, hard-wired (R84). -/
def fetchPulse (cfg : Config) (s : State) : State :=
  { s with mar := s.pc, ir := zext16 (memRead cfg s s.pc), pc := s.pc + 1#16, stepCount := 1#4 }

/-- Step 1, decode, hard-wired (R85); an opcode with no rows raises UnknownOpcode and STEP stays (R86). -/
def decodePulse (cfg : Config) (s : State) : State :=
  if ControlTable.defined cfg.table (lo8 s.ir) then { s with opc := lo8 s.ir, stepCount := 2#4 }
  else takeFault (.unknownOpcode (lo8 s.ir) s.ir) { s with opc := lo8 s.ir }

/-- Phase 4 (R94): the flags change in an ALU-tagged pulse alone, from the ALU at the start of the pulse. -/
def flagPhase (w : ControlWord) (start s : State) : State :=
  match w.aluOp with
  | some op => s.withFlags (start.aluOut op)
  | none => s

/-- Phase 5 (R98, R99): `halt` leaves STEP and wins over `is_last`. -/
def advance (w : ControlWord) (s : State) : State :=
  if w.halt then { s with halted := true }
  else if w.isLast then finish s
  else { s with stepCount := s.stepCount + 1#4 }

/-- An execute pulse for a control word (R87 to R100): bus, latches and counters, flags, sequencer. Where the
memory write port latches, the byte goes to the MAR of the start of the pulse (R93); a ROM address there is
an IllegalWrite, and every other effect still takes place (R100). -/
def executePulse (cfg : Config) (w : ControlWord) (s : State) : State :=
  let bus := busValue cfg w s
  let latched := flagPhase w s (latchRegisters w bus s)
  if .mem ∈ w.latch then
    match memWrite cfg latched s.mar (lo8 bus) with
    | some stored => advance w stored
    | none => takeFault (.illegalWrite s.mar (lo8 bus)) latched
  else advance w latched

/-- `Pulse` (R103) under a configuration that passed the checks; only `pulse` runs it. A halted machine does not
change (R83). Refused only where (OPC, STEP) has no row, which a well-formed table never reaches (R108). -/
def checkedPulse (cfg : Config) (s : State) : Host.Outcome State Fault Refusal :=
  if s.halted then .next s
  else if s.stepCount = 0#4 then .next (fetchPulse cfg s)
  else if s.stepCount = 1#4 then .next (decodePulse cfg s)
  else
    match ControlTable.row? cfg.table s.opc s.stepCount.toNat with
    | some w => .next (executePulse cfg w s)
    | none => .refused (.noControlRow s.opc s.stepCount.toNat)

/-- One clock pulse, the spec's `step()` (R101), under any well-formed configuration (R107). An ill-formed one has
no meaning: it is refused (R39, R48, R82), whatever the state. -/
def pulse (cfg : Config) (s : State) : Host.Outcome State Fault Refusal :=
  if cfg.wellFormed then checkedPulse cfg s else .refused .illFormedConfig

/-- `n` pulses. -/
def runPulses (cfg : Config) : Nat → State → Host.Outcome State Fault Refusal
  | 0, s => .next s
  | n + 1, s =>
    match pulse cfg s with
    | .next s' => runPulses cfg n s'
    | .fault r => .fault r
    | .refused r => .refused r

/-- An instruction has ended (R102): the sequencer is back at fetch, or halted. -/
def State.atBoundary (s : State) : Bool := s.halted || s.stepCount == 0#4

/-- Pulses until the instruction ends (R102), at least one and at most `n`. -/
def pulsesToBoundary (cfg : Config) : Nat → State → Host.Outcome State Fault Refusal
  | 0, s => .next s
  | n + 1, s =>
    match pulse cfg s with
    | .next s' => if s'.atBoundary then .next s' else pulsesToBoundary cfg n s'
    | .fault r => .fault r
    | .refused r => .refused r

/-- The rest of the instruction under way. STEP has 16 values (R23), so 16 pulses reach its end under any
well-formed table (R108). -/
def finishInstruction (cfg : Config) (s : State) : Host.Outcome State Fault Refusal :=
  pulsesToBoundary cfg 16 s

/-- The bytes at PC, as many as the longest instruction has; addresses wrap (R63). -/
def bytesAtPc (cfg : Config) (s : State) : List Byte :=
  [memRead cfg s s.pc, memRead cfg s (s.pc + 1#16), memRead cfg s (s.pc + 2#16)]

/-- The state after the fetch and decode pulses of the instruction at PC (R84 to R86). -/
def afterDecode (cfg : Config) (s : State) : State := decodePulse cfg (fetchPulse cfg s)

/-- Bytes placed from an address up, wrapping at the top of the address space. -/
def placeBytes (cfg : Config) (s : State) (addr : Word) : List Byte → State
  | [] => s
  | v :: rest => placeBytes cfg (placeByte cfg s addr v) (addr + 1#16) rest

end Sys2Proof.Machine
end

