-- ==== Sys2Proof/Machine/Step.lean ====
section
/-! DEFINITION. The step of the model: one whole instruction (log entry 1). -/
namespace Sys2Proof.Machine

/-- One step. A halted machine does not change (R83). At an instruction boundary (STEP = 0) the instruction at
PC is fetched and decoded by its two hard-wired pulses (R84, R85) and `exec` runs the rest; a byte that is
no opcode halts in the decode pulse (R86). Within an instruction, which a host that counts single pulses can
reach, the step finishes it pulse by pulse (R102; log entry 6). The decoder reads the operand bytes at the
boundary, the rows one by one; no row writes memory between (log entry 9). -/
def step (s : State) : Host.Outcome State Fault Refusal :=
  if s.halted then .next s
  else if s.stepCount = 0#4 then
    match decode (bytesAtPc Ref.config s) with
    | .ok (i, _) => exec i (afterDecode Ref.config s)
    | .error _ => .next (afterDecode Ref.config s)
  else finishInstruction Ref.config s

/-- The state with a table word's instruction placed where the next step fetches it: at PC, the bytes above
`nbits` zero up to three bytes. The placement stands for the image a host loads (log entry 2), so it ignores
the ROM's write protection. The next step fetches only at an instruction boundary of a machine that runs, so
STEP, HALTED and FAULT take their reset values. -/
def State.withFetchWord (s : State) (nbits w : Nat) : State :=
  { placeBytes Ref.config s s.pc (tableWordBytes nbits w) with
    stepCount := 0#4, halted := false, fault := none }

end Sys2Proof.Machine
end

