-- ==== Sys2Proof/Machine/Interface.lean ====
section
/-! DEFINITION. The host's interface besides `step()`: construction (R165, R166) and inspection (R36). External
reset is `State.externalReset` in Ops.lean. -/
namespace Sys2Proof.Machine

/-- Construction `new(rom_image, debug)` under a configuration (R166): an ill-formed configuration is refused
and an image of another size than 65,535 bytes fails, before any state exists (R150, R165). `debug` has no
effect on the state (R162; log entry 11). -/
def State.construct (cfg : Config) (image : List Byte) (_debug : Bool) :
    Host.Outcome State Fault Refusal :=
  if !cfg.wellFormed then .refused .illFormedConfig
  else if image.length ≠ imageSize then .fault (.invalidImageSize image.length)
  else .next (State.ofRom (Memory.ofBytes image))

/-- What inspection shows (R36): the full state of R13 (92_eei_decisions.md D27), with every ROM byte as loaded
(D29), and a window of RAM where one was asked for. Its text format is not specified. -/
structure Snapshot where
  state     : State
  ramWindow : Option (List Byte)
  deriving DecidableEq, Repr

/-- The RAM bytes at the offsets from `first`, at most `count` of them. RAM has the offsets 0 to 65534 (R28); the
window stops there (DESIGN CHOICE, log entry 13: the spec gives a window no bounds). -/
def State.ramBytes (s : State) (first count : Nat) : List Byte :=
  (List.range (min count (imageSize - first))).map fun n => readCell s.ram (first + n)

/-- Inspection (R36), with an optional window of RAM: its first offset and its length. It changes no state. -/
def State.inspect (s : State) (window : Option (Nat × Nat)) : Snapshot :=
  { state := s, ramWindow := window.map fun w => s.ramBytes w.1 w.2 }

end Sys2Proof.Machine
end

