-- ==== Sys2Proof/Safety.lean ====
section
/-! DEFINITION. What counts as a sound state and a safe end of a run, in the terms the statements use. -/
namespace Sys2Proof.Machine

/-- FAULT records only what can have raised it: an IllegalWrite names a ROM address (R149), an UnknownOpcode
the low byte of the IR and no defined opcode (R148). -/
def faultSound (cfg : Config) : Option FaultRecord → Bool
  | none => true
  | some (.illegalWrite addr _) => decide (addr.toNat < cfg.split.toNat)
  | some (.unknownOpcode opc ir) => opc == lo8 ir && !ControlTable.defined cfg.table opc

/-- What holds in every state a machine can be in under a configuration: the images keep their form (R27, R28);
RAM past the last reachable offset stays 0x00 (R39); a fault is recorded only in a halted machine (R26) and is
sound; IR is zero-extended after a fetch (R16); and an execute step is of a defined opcode and has its row
(R87, R108). -/
structure State.Sound (cfg : Config) (s : State) : Prop where
  romForm     : s.rom.wf = true
  ramForm     : s.ram.wf = true
  ramReach    : ∀ cell ∈ s.ram, cell.1 + cfg.split.toNat < 2 ^ 16
  faultHalts  : s.fault ≠ none → s.halted = true
  faultOrigin : faultSound cfg s.fault = true
  irExtended  : s.stepCount = 1#4 → hi8 s.ir = 0#8
  rowExists   : 2 ≤ s.stepCount.toNat → ControlTable.defined cfg.table s.opc = true ∧
    (ControlTable.row? cfg.table s.opc s.stepCount.toNat).isSome = true

/-- A normal end of a run (R26, R176). -/
def State.normalEnd (s : State) : Bool := s.halted && s.fault.isNone

/-- A fault end of a run (R26, R176). -/
def State.faultEnd (s : State) : Bool := s.halted && s.fault.isSome

/-- A run is safe as far as it has gone when no fault is recorded: a claim about a run takes this as its
premise (93_implementation_defined.md I2). -/
def State.safe (s : State) : Bool := s.fault.isNone

/-! What each instruction reads and writes after its decode, register by register, from the table of R34. -/

/-- The ALU instructions (43_alu.md): those that write Z. -/
def writesZ : Instr → Bool
  | .add | .adc | .sub | .sbc | .and | .or | .xor | .not | .shl | .shr | .inc | .dec | .cmp => true
  | .nop | .ldiA _ | .ldiB _ | .lda _ | .ldb _ | .sta _ | .stb _ | .ldx | .stx | .movAB | .movBA => false
  | .movASp | .movSpA | .jmp _ | .jc _ | .jnc _ | .jz _ | .jnz _ | .call _ | .ret | .pushA | .popA => false
  | .hlt => false

/-- The ALU instructions that can change C: the logic ones pass it through (R21, R34). -/
def writesC : Instr → Bool
  | .add | .adc | .sub | .sbc | .shl | .shr | .inc | .dec | .cmp => true
  | .nop | .ldiA _ | .ldiB _ | .lda _ | .ldb _ | .sta _ | .stb _ | .ldx | .stx | .movAB | .movBA => false
  | .movASp | .movSpA | .and | .or | .xor | .not | .jmp _ | .jc _ | .jnc _ | .jz _ | .jnz _ => false
  | .call _ | .ret | .pushA | .popA | .hlt => false

/-- R34, A written by. -/
def writesA : Instr → Bool
  | .ldiA _ | .lda _ | .ldx | .movAB | .movASp | .add | .adc | .sub | .sbc | .and | .or | .xor => true
  | .not | .shl | .shr | .inc | .dec | .popA => true
  | .nop | .ldiB _ | .ldb _ | .sta _ | .stb _ | .stx | .movBA | .movSpA | .cmp | .jmp _ | .jc _ => false
  | .jnc _ | .jz _ | .jnz _ | .call _ | .ret | .pushA | .hlt => false

/-- R34, B written by. -/
def writesB : Instr → Bool
  | .ldiB _ | .ldb _ | .movBA => true
  | .nop | .ldiA _ | .lda _ | .sta _ | .stb _ | .ldx | .stx | .movAB | .movASp | .movSpA | .add => false
  | .adc | .sub | .sbc | .and | .or | .xor | .not | .shl | .shr | .inc | .dec | .cmp | .jmp _ => false
  | .jc _ | .jnc _ | .jz _ | .jnz _ | .call _ | .ret | .pushA | .popA | .hlt => false

/-- R34, T written by. -/
def writesT : Instr → Bool
  | .lda _ | .ldb _ | .sta _ | .stb _ | .jmp _ | .jc _ | .jnc _ | .jz _ | .jnz _ | .call _ | .ret => true
  | .nop | .ldiA _ | .ldiB _ | .ldx | .stx | .movAB | .movBA | .movASp | .movSpA | .add | .adc => false
  | .sub | .sbc | .and | .or | .xor | .not | .shl | .shr | .inc | .dec | .cmp | .pushA | .popA => false
  | .hlt => false

/-- R34, SP written by. -/
def writesSp : Instr → Bool
  | .movSpA | .call _ | .ret | .pushA | .popA => true
  | .nop | .ldiA _ | .ldiB _ | .lda _ | .ldb _ | .sta _ | .stb _ | .ldx | .stx | .movAB | .movBA => false
  | .movASp | .add | .adc | .sub | .sbc | .and | .or | .xor | .not | .shl | .shr | .inc | .dec => false
  | .cmp | .jmp _ | .jc _ | .jnc _ | .jz _ | .jnz _ | .hlt => false

/-- R34, MAR written by, after the fetch: every instruction that reads an operand byte or accesses data. -/
def writesMar : Instr → Bool
  | .ldiA _ | .ldiB _ | .lda _ | .ldb _ | .sta _ | .stb _ | .ldx | .stx | .jmp _ | .jc _ | .jnc _ => true
  | .jz _ | .jnz _ | .call _ | .ret | .pushA | .popA => true
  | .nop | .movAB | .movBA | .movASp | .movSpA | .add | .adc | .sub | .sbc | .and | .or | .xor => false
  | .not | .shl | .shr | .inc | .dec | .cmp | .hlt => false

/-- R34, A read by. -/
def readsA : Instr → Bool
  | .sta _ | .stx | .movBA | .movSpA | .add | .adc | .sub | .sbc | .and | .or | .xor | .not | .shl => true
  | .shr | .inc | .dec | .cmp | .pushA => true
  | .nop | .ldiA _ | .ldiB _ | .lda _ | .ldb _ | .stb _ | .ldx | .movAB | .movASp | .jmp _ | .jc _ => false
  | .jnc _ | .jz _ | .jnz _ | .call _ | .ret | .popA | .hlt => false

/-- R34, B read by. -/
def readsB : Instr → Bool
  | .stb _ | .ldx | .stx | .movAB | .add | .adc | .sub | .sbc | .and | .or | .xor | .cmp => true
  | .nop | .ldiA _ | .ldiB _ | .lda _ | .ldb _ | .sta _ | .movBA | .movASp | .movSpA | .not | .shl => false
  | .shr | .inc | .dec | .jmp _ | .jc _ | .jnc _ | .jz _ | .jnz _ | .call _ | .ret | .pushA | .popA => false
  | .hlt => false

/-- R34, SP read by. -/
def readsSp : Instr → Bool
  | .movASp | .call _ | .ret | .pushA | .popA => true
  | .nop | .ldiA _ | .ldiB _ | .lda _ | .ldb _ | .sta _ | .stb _ | .ldx | .stx | .movAB | .movBA => false
  | .movSpA | .add | .adc | .sub | .sbc | .and | .or | .xor | .not | .shl | .shr | .inc | .dec => false
  | .cmp | .jmp _ | .jc _ | .jnc _ | .jz _ | .jnz _ | .hlt => false

/-- R34, C read by, but for the logic instructions, which R34 lists and which pass C through to itself (R21). -/
def readsC : Instr → Bool
  | .adc | .sbc | .jc _ | .jnc _ => true
  | .nop | .ldiA _ | .ldiB _ | .lda _ | .ldb _ | .sta _ | .stb _ | .ldx | .stx | .movAB | .movBA => false
  | .movASp | .movSpA | .add | .sub | .and | .or | .xor | .not | .shl | .shr | .inc | .dec | .cmp => false
  | .jmp _ | .jz _ | .jnz _ | .call _ | .ret | .pushA | .popA | .hlt => false

/-- R34, Z read by. -/
def readsZ : Instr → Bool
  | .jz _ | .jnz _ => true
  | .nop | .ldiA _ | .ldiB _ | .lda _ | .ldb _ | .sta _ | .stb _ | .ldx | .stx | .movAB | .movBA => false
  | .movASp | .movSpA | .add | .adc | .sub | .sbc | .and | .or | .xor | .not | .shl | .shr | .inc => false
  | .dec | .cmp | .jmp _ | .jc _ | .jnc _ | .call _ | .ret | .pushA | .popA | .hlt => false

/-- The instructions that neither read nor write memory after their decode and do not transfer control: the
moves, the ALU instructions, NOP and HLT. -/
def registerOnly : Instr → Bool
  | .nop | .movAB | .movBA | .movASp | .movSpA | .add | .adc | .sub | .sbc | .and | .or | .xor => true
  | .not | .shl | .shr | .inc | .dec | .cmp | .hlt => true
  | .ldiA _ | .ldiB _ | .lda _ | .ldb _ | .sta _ | .stb _ | .ldx | .stx | .jmp _ | .jc _ | .jnc _ => false
  | .jz _ | .jnz _ | .call _ | .ret | .pushA | .popA => false

/-- The instructions that read memory and store nothing: the loads, POP A and RET. -/
def loadsOnly : Instr → Bool
  | .ldiA _ | .ldiB _ | .lda _ | .ldb _ | .ldx | .ret | .popA => true
  | .nop | .sta _ | .stb _ | .stx | .movAB | .movBA | .movASp | .movSpA | .add | .adc | .sub | .sbc => false
  | .and | .or | .xor | .not | .shl | .shr | .inc | .dec | .cmp | .jmp _ | .jc _ | .jnc _ | .jz _ => false
  | .jnz _ | .call _ | .pushA | .hlt => false

/-- The jumps that store nothing. -/
def jumps : Instr → Bool
  | .jmp _ | .jc _ | .jnc _ | .jz _ | .jnz _ => true
  | .nop | .ldiA _ | .ldiB _ | .lda _ | .ldb _ | .sta _ | .stb _ | .ldx | .stx | .movAB | .movBA => false
  | .movASp | .movSpA | .add | .adc | .sub | .sbc | .and | .or | .xor | .not | .shl | .shr | .inc => false
  | .dec | .cmp | .call _ | .ret | .pushA | .popA | .hlt => false

end Sys2Proof.Machine
end

