-- ==== Sys2Proof/Certificates/Slice0/Obligations.lean ====
section
/-! DEFINITION. The statements for the provers, from the numbered rules of spec/. OBLIGATIONS.json gives each its
title, its rules and its words. The first part names what the statements share. -/
namespace Sys2Proof.Machine

/-- The byte at PC: the opcode of the instruction there (R61). -/
def opcodeAt (s : State) : Byte := memRead Ref.config s s.pc

/-- The F1 operand of the instruction at PC (R64). -/
def imm8At (s : State) : Byte := memRead Ref.config s (s.pc + 1#16)

/-- The F2 operand of the instruction at PC (R65). -/
def addr16At (s : State) : Word :=
  catBytes (memRead Ref.config s (s.pc + 2#16)) (memRead Ref.config s (s.pc + 1#16))

/-- The instruction at PC takes `n` pulses of the engine on SIS16-REF and leaves `t`, and so does the step,
which is the model's whole instruction (log entry 1). -/
def takes (n : Nat) (s t : State) : Prop :=
  step s = .next t ∧ runPulses Ref.config n s = .next t

/-- What every F0 instruction at PC leaves beside its own effect: MAR = p, PC = p+1, IR and OPC its opcode,
STEP 0. -/
def afterF0 (opc : Byte) (s : State) : State :=
  { s with mar := s.pc, ir := zext16 opc, pc := s.pc + 1#16, opc := opc, stepCount := 0#4 }

/-- What every F1 instruction at PC leaves beside its own effect: MAR = p+1, PC = p+2. -/
def afterF1 (opc : Byte) (s : State) : State :=
  { s with mar := s.pc + 1#16, ir := zext16 opc, pc := s.pc + 2#16, opc := opc, stepCount := 0#4 }

/-- What every F2 instruction at PC leaves beside its own effect: T its operand, MAR = p+2, PC = p+3. -/
def afterF2 (opc : Byte) (s : State) : State :=
  { s with t := addr16At s, mar := s.pc + 2#16, ir := zext16 opc, pc := s.pc + 3#16, opc := opc,
           stepCount := 0#4 }

/-- RAM with a return address pushed: its high byte at SP - 1, its low byte at SP - 2 of the stack window,
whose RAM offsets are 0x7F00 + SP (R46, R140). -/
def pushedReturn (s : State) (ret : Word) : Memory :=
  writeCell (writeCell s.ram (0x7F00 + (s.sp - 1#8).toNat) (hi8 ret))
    (0x7F00 + (s.sp - 2#8).toNat) (lo8 ret)

/-- The return address on the stack: its low byte at SP, its high byte at SP + 1 (R141). -/
def poppedReturn (s : State) : Word :=
  catBytes (memRead Ref.config s (0xFF00#16 + zext16 (s.sp + 1#8)))
    (memRead Ref.config s (0xFF00#16 + zext16 s.sp))

/-- The CPU address a store instruction stores to: its operand, or B (R113, R114, R116). -/
def storeAddress (i : Instr) (s : State) : Option Word :=
  match i with
  | .sta ea | .stb ea => some ea
  | .stx => some s.b
  | .nop | .ldiA _ | .ldiB _ | .lda _ | .ldb _ | .ldx | .movAB | .movBA | .movASp | .movSpA => none
  | .add | .adc | .sub | .sbc | .and | .or | .xor | .not | .shl | .shr | .inc | .dec | .cmp => none
  | .jmp _ | .jc _ | .jnc _ | .jz _ | .jnz _ | .call _ | .ret | .pushA | .popA | .hlt => none

/-- The unknown opcode bytes, range by range as R68 lists them. -/
def unknownByR68 (op : Byte) : Bool :=
  let n := op.toNat
  (decide (0x09 ≤ n) && decide (n ≤ 0x0F)) || (decide (0x14 ≤ n) && decide (n ≤ 0x1F)) ||
  (decide (0x2D ≤ n) && decide (n ≤ 0x2F)) || (decide (0x35 ≤ n) && decide (n ≤ 0x37)) ||
  (decide (0x3A ≤ n) && decide (n ≤ 0x3F)) || (decide (0x42 ≤ n) && decide (n ≤ 0xFE))

/-- The pulses of each instruction, row by row as the table of R175 lists them. -/
def pulsesByR175 : Instr → Nat
  | .nop | .hlt | .movAB | .movBA | .movASp | .movSpA => 3
  | .add | .adc | .sub | .sbc | .and | .or | .xor | .not | .shl | .shr | .inc | .dec | .cmp => 3
  | .ldiA _ | .ldiB _ | .ldx | .stx | .popA => 4
  | .pushA => 5
  | .jmp _ | .jc _ | .jnc _ | .jz _ | .jnz _ | .ret => 7
  | .lda _ | .ldb _ | .sta _ | .stb _ => 8
  | .call _ => 11

end Sys2Proof.Machine

open Sys2Proof Sys2Proof.Machine

/-- Construction yields the reset state, or refuses an ill-formed configuration (R35, R166). -/
def Obligations.ConstructionYieldsResetState : Prop :=
  ∀ (cfg : Config) (image : List Byte) (debug : Bool),
    (cfg.wellFormed = false → State.construct cfg image debug = .refused .illFormedConfig) ∧
    (cfg.wellFormed = true → image.length = 65535 →
      ∃ s, State.construct cfg image debug = .next s ∧
        s.pc = 0#16 ∧ s.mar = 0#16 ∧ s.ir = 0#16 ∧ s.a = 0#16 ∧ s.b = 0#16 ∧ s.t = 0#16 ∧
        s.sp = 0#8 ∧ s.c = false ∧ s.z = false ∧ s.stepCount = 0#4 ∧ s.opc = 0#8 ∧
        s.halted = false ∧ s.fault = none ∧
        (∀ off, readCell s.ram off = 0#8) ∧
        (∀ (off : Nat) (h : off < image.length), readCell s.rom off = image[off]))

/-- Construction with an image of another size fails with InvalidImageSize (R150). -/
def Obligations.WrongImageSizeFails : Prop :=
  ∀ (cfg : Config) (image : List Byte) (debug : Bool), cfg.wellFormed = true →
    image.length ≠ 65535 →
      State.construct cfg image debug = .fault (.invalidImageSize image.length)

/-- External reset after any pulses gives the construction state again (R168). -/
def Obligations.ExternalResetRestoresConstruction : Prop :=
  ∀ (cfg : Config) (image : List Byte) (debug : Bool) (n : Nat) (start s : State),
    State.construct cfg image debug = .next start → runPulses cfg n start = .next s →
      s.externalReset = start

/-- A pulse or a step taken while HALTED is 1 changes no state (R83). The step's part is the model's, log entry 1. -/
def Obligations.HaltedMachineIsFrozen : Prop :=
  ∀ (cfg : Config) (s : State), cfg.wellFormed = true → s.halted = true →
    (∀ n, runPulses cfg n s = .next s) ∧ step s = .next s

/-- Step 0 fetches: MAR takes PC, IR the zero-extended byte at PC, PC advances (R84). -/
def Obligations.FetchLaw : Prop :=
  ∀ (cfg : Config) (s : State), cfg.wellFormed = true → s.halted = false → s.stepCount = 0#4 →
    pulse cfg s = .next { s with
      mar := s.pc, ir := zext16 (memRead cfg s s.pc), pc := s.pc + 1#16, stepCount := 1#4 }

/-- Step 1 on a defined opcode writes OPC and goes to step 2, nothing else (R85). -/
def Obligations.DecodeSelectsOpcode : Prop :=
  ∀ (cfg : Config) (s : State), cfg.wellFormed = true → s.halted = false → s.stepCount = 1#4 →
    ControlTable.defined cfg.table (lo8 s.ir) = true →
      pulse cfg s = .next { s with opc := lo8 s.ir, stepCount := 2#4 }

/-- Step 1 on an unknown opcode records UnknownOpcode and halts with STEP 1 (R86). -/
def Obligations.UnknownOpcodeHaltsAtDecode : Prop :=
  ∀ (cfg : Config) (s : State), cfg.wellFormed = true → s.halted = false → s.stepCount = 1#4 →
    ControlTable.defined cfg.table (lo8 s.ir) = false →
      pulse cfg s = .next { s with
        opc := lo8 s.ir, halted := true, fault := some (.unknownOpcode (lo8 s.ir) s.ir) }

/-- The bus is the bitwise OR of its drivers, and 0x0000 with none (R88, R105). -/
def Obligations.BusIsOrOfDrivers : Prop :=
  ∀ (cfg : Config) (w : ControlWord) (s : State),
    (∀ k, (busValue cfg w s).getLsbD k =
      w.drive.any fun d => (sourceValue cfg w s d).getLsbD k) ∧
    (w.drive = [] → busValue cfg w s = 0#16) ∧
    (∀ d e, w.drive = [d, e] →
      busValue cfg w s = sourceValue cfg w s d ||| sourceValue cfg w s e)

/-- What each drive source puts on the bus (R89). -/
def Obligations.DriveSourceValues : Prop :=
  ∀ (cfg : Config) (w : ControlWord) (s : State),
    sourceValue cfg w s .pc = s.pc ∧ sourceValue cfg w s .mar = s.mar ∧
    sourceValue cfg w s .ir = s.ir ∧ sourceValue cfg w s .a = s.a ∧
    sourceValue cfg w s .b = s.b ∧ sourceValue cfg w s .t = s.t ∧
    (sourceValue cfg w s .sp).toNat = s.sp.toNat ∧
    (sourceValue cfg w s .spa).toNat = (cfg.stackBase.toNat + s.sp.toNat) % 2 ^ 16 ∧
    (sourceValue cfg w s .pch).toNat = s.pc.toNat / 2 ^ 8 ∧
    (sourceValue cfg w s .mem).toNat = (memRead cfg s s.mar).toNat ∧
    (∀ op, w.aluOp = some op → sourceValue cfg w s .alu = (alu op s.a s.b s.c).result)

/-- Phase 3: every latch target takes the one bus value, PC under its condition, and the counters count (R90, R91, R92). -/
def Obligations.LatchesCaptureTheBus : Prop :=
  ∀ (cfg : Config) (s : State) (w : ControlWord), cfg.wellFormed = true → s.halted = false →
    2 ≤ s.stepCount.toNat →
    ControlTable.row? cfg.table s.opc s.stepCount.toNat = some w → s.ram.wf = true →
    ∃ s', pulse cfg s = .next s' ∧
      (LatchTarget.pc ∈ w.latch →
        s'.pc = if (w.cond = .always ∨ (w.cond = .c ∧ s.c = true) ∨ (w.cond = .nc ∧ s.c = false) ∨
          (w.cond = .z ∧ s.z = true) ∨ (w.cond = .nz ∧ s.z = false)) then busValue cfg w s else s.pc) ∧
      (w.pcInc = true → s'.pc.toNat = (s.pc.toNat + 1) % 2 ^ 16) ∧
      (LatchTarget.pc ∉ w.latch → w.pcInc = false → s'.pc = s.pc) ∧
      s'.mar = (if LatchTarget.mar ∈ w.latch then busValue cfg w s else s.mar) ∧
      s'.ir = (if LatchTarget.ir ∈ w.latch then busValue cfg w s else s.ir) ∧
      s'.a = (if LatchTarget.a ∈ w.latch then busValue cfg w s else s.a) ∧
      s'.b = (if LatchTarget.b ∈ w.latch then busValue cfg w s else s.b) ∧
      (LatchTarget.t ∈ w.latch → s'.t = busValue cfg w s) ∧
      (LatchTarget.t ∉ w.latch →
        lo8 s'.t = (if LatchTarget.tl ∈ w.latch then lo8 (busValue cfg w s) else lo8 s.t) ∧
        hi8 s'.t = (if LatchTarget.th ∈ w.latch then lo8 (busValue cfg w s) else hi8 s.t)) ∧
      (LatchTarget.sp ∈ w.latch → s'.sp = lo8 (busValue cfg w s)) ∧
      (w.spInc = true → s'.sp.toNat = (s.sp.toNat + 1) % 2 ^ 8) ∧
      (w.spDec = true → s'.sp.toNat = (s.sp.toNat + 255) % 2 ^ 8) ∧
      (LatchTarget.sp ∉ w.latch → w.spInc = false → w.spDec = false → s'.sp = s.sp) ∧
      s'.opc = s.opc ∧
      (∀ x, memRead cfg s' x =
        if LatchTarget.mem ∈ w.latch ∧ cfg.split.toNat ≤ s.mar.toNat ∧ x = s.mar
        then lo8 (busValue cfg w s) else memRead cfg s x)

/-- Phase 4: an ALU-tagged pulse sets C to the carry and Z to result = 0; any other keeps both (R94, R97). -/
def Obligations.FlagsFollowTheAluResult : Prop :=
  ∀ (cfg : Config) (s : State) (w : ControlWord), cfg.wellFormed = true → s.halted = false →
    2 ≤ s.stepCount.toNat →
    ControlTable.row? cfg.table s.opc s.stepCount.toNat = some w →
    ∃ s', pulse cfg s = .next s' ∧
      (∀ op, w.aluOp = some op → s'.c = (alu op s.a s.b s.c).carryOut ∧
        (s'.z = true ↔ (alu op s.a s.b s.c).result = 0#16)) ∧
      (w.aluOp = none → s'.c = s.c ∧ s'.z = s.z)

/-- Every ALU operation's result and carry (R96). -/
def Obligations.AluOperations : Prop :=
  ∀ (a b : Word) (cin : Bool),
    ((alu .add a b cin).result = a + b ∧
      (alu .add a b cin).carryOut = decide (2 ^ 16 ≤ a.toNat + b.toNat)) ∧
    ((alu .adc a b cin).result.toNat = (a.toNat + b.toNat + cin.toNat) % 2 ^ 16 ∧
      (alu .adc a b cin).carryOut = decide (2 ^ 16 ≤ a.toNat + b.toNat + cin.toNat)) ∧
    ((alu .sub a b cin).result = a - b ∧
      (alu .sub a b cin).carryOut = decide (b.toNat ≤ a.toNat)) ∧
    ((alu .sbc a b cin).result.toNat = (a.toNat + 2 ^ 16 - b.toNat - 1 + cin.toNat) % 2 ^ 16 ∧
      (alu .sbc a b cin).carryOut = decide (b.toNat + 1 ≤ a.toNat + cin.toNat)) ∧
    ((alu .and a b cin).result = a &&& b ∧ (alu .and a b cin).carryOut = cin) ∧
    ((alu .or a b cin).result = a ||| b ∧ (alu .or a b cin).carryOut = cin) ∧
    ((alu .xor a b cin).result = a ^^^ b ∧ (alu .xor a b cin).carryOut = cin) ∧
    ((alu .not a b cin).result.toNat = 0xFFFF - a.toNat ∧ (alu .not a b cin).carryOut = cin) ∧
    ((alu .shl a b cin).result = a <<< 1 ∧ (alu .shl a b cin).carryOut = a.msb) ∧
    ((alu .shr a b cin).result = a >>> 1 ∧
      (alu .shr a b cin).carryOut = decide (a.toNat % 2 = 1)) ∧
    ((alu .inc a b cin).result = a + 1#16 ∧
      (alu .inc a b cin).carryOut = decide (a = 0xFFFF#16)) ∧
    ((alu .dec a b cin).result = a - 1#16 ∧ (alu .dec a b cin).carryOut = decide (a ≠ 0#16))

/-- A pulse that is not ALU-tagged never changes C or Z (R104). -/
def Obligations.FlagIdempotence : Prop :=
  ∀ (cfg : Config) (s s' : State), pulse cfg s = .next s' →
    (∀ w, s.halted = false → 2 ≤ s.stepCount.toNat →
      ControlTable.row? cfg.table s.opc s.stepCount.toNat = some w → w.aluOp = none) →
      s'.c = s.c ∧ s'.z = s.z

/-- Phase 5: halt wins and keeps STEP, is_last returns to fetch, else STEP counts (R98). -/
def Obligations.SequencerAdvance : Prop :=
  ∀ (cfg : Config) (s : State) (w : ControlWord), cfg.wellFormed = true → s.halted = false →
    2 ≤ s.stepCount.toNat →
    ControlTable.row? cfg.table s.opc s.stepCount.toNat = some w →
    (LatchTarget.mem ∉ w.latch ∨ cfg.split.toNat ≤ s.mar.toNat) →
    ∃ s', pulse cfg s = .next s' ∧ s'.fault = s.fault ∧ s'.halted = w.halt ∧
      (w.halt = true → s'.stepCount = s.stepCount) ∧
      (w.halt = false → w.isLast = true → s'.stepCount = 0#4) ∧
      (w.halt = false → w.isLast = false → s'.stepCount = s.stepCount + 1#4)

/-- A MEM latch while MAR selects ROM halts with IllegalWrite and does everything else of the pulse (R42, R100). -/
def Obligations.RomWriteIsRejected : Prop :=
  ∀ (cfg : Config) (s : State) (w : ControlWord), cfg.wellFormed = true → s.halted = false →
    2 ≤ s.stepCount.toNat →
    ControlTable.row? cfg.table s.opc s.stepCount.toNat = some w →
    LatchTarget.mem ∈ w.latch → s.mar.toNat < cfg.split.toNat →
    ∃ s', pulse cfg s = .next s' ∧ s'.rom = s.rom ∧ s'.ram = s.ram ∧ s'.halted = true ∧
      s'.stepCount = s.stepCount ∧
      s'.fault = some (.illegalWrite s.mar (lo8 (busValue cfg w s))) ∧
      s' = { executePulse cfg { w with latch := w.latch.filter (· != .mem), halt := true } s with
        fault := s'.fault }

/-- The write port stores bus[7:0] at the RAM byte MAR selects and no other (R41). -/
def Obligations.WritePortStoresOneByte : Prop :=
  ∀ (cfg : Config) (s : State) (w : ControlWord), cfg.wellFormed = true → s.halted = false →
    2 ≤ s.stepCount.toNat →
    ControlTable.row? cfg.table s.opc s.stepCount.toNat = some w →
    LatchTarget.mem ∈ w.latch → cfg.split.toNat ≤ s.mar.toNat → s.ram.wf = true →
    ∃ s', pulse cfg s = .next s' ∧ s'.rom = s.rom ∧
      readCell s'.ram (s.mar.toNat - cfg.split.toNat) = lo8 (busValue cfg w s) ∧
      memRead cfg s' s.mar = lo8 (busValue cfg w s) ∧
      ∀ x, x ≠ s.mar → memRead cfg s' x = memRead cfg s x

/-- MEM driven and latched in one pulse stores the old byte ORed with the other drivers (R55). -/
def Obligations.ReadAndWriteInOnePulse : Prop :=
  ∀ (cfg : Config) (s : State) (w : ControlWord), cfg.wellFormed = true → s.halted = false →
    2 ≤ s.stepCount.toNat →
    ControlTable.row? cfg.table s.opc s.stepCount.toNat = some w →
    DriveSource.mem ∈ w.drive → LatchTarget.mem ∈ w.latch → cfg.split.toNat ≤ s.mar.toNat →
    s.ram.wf = true →
    ∃ s', pulse cfg s = .next s' ∧ ∀ k, k < 8 →
      (memRead cfg s' s.mar).getLsbD k = ((memRead cfg s s.mar).getLsbD k ||
        (w.drive.filter (· != .mem)).any fun d => (sourceValue cfg w s d).getLsbD k)

/-- No pulse and no step changes ROM (R27). The step's part is the model's, log entry 1. -/
def Obligations.RomNeverChanges : Prop :=
  (∀ (cfg : Config) (n : Nat) (s s' : State), runPulses cfg n s = .next s' → s'.rom = s.rom) ∧
    (∀ s s' : State, step s = .next s' → s'.rom = s.rom)

/-- Only the decode pulse writes OPC, with IR[7:0]; under SIS16-REF OPC stays IR[7:0] (R24). -/
def Obligations.OpcIsWrittenByDecodeAlone : Prop :=
  (∀ (cfg : Config) (s s' : State), pulse cfg s = .next s' →
      s'.opc = if s.halted = false ∧ s.stepCount = 1#4 then lo8 s.ir else s.opc) ∧
    (∀ s s' : State, pulse Ref.config s = .next s' →
      (2 ≤ s.stepCount.toNat → s.opc = lo8 s.ir) → (2 ≤ s'.stepCount.toNat → s'.opc = lo8 s'.ir))

/-- HALTED is set only by halt, UnknownOpcode or IllegalWrite, and no pulse clears it (R25). -/
def Obligations.HaltedHasThreeCauses : Prop :=
  ∀ (cfg : Config) (s s' : State), pulse cfg s = .next s' →
    (s.halted = true → s'.halted = true) ∧
    (s.halted = false → (s'.halted = true ↔
      (s.stepCount = 1#4 ∧ ControlTable.defined cfg.table (lo8 s.ir) = false) ∨
      (2 ≤ s.stepCount.toNat ∧ ∃ w,
        ControlTable.row? cfg.table s.opc s.stepCount.toNat = some w ∧
        (w.halt = true ∨ (LatchTarget.mem ∈ w.latch ∧ s.mar.toNat < cfg.split.toNat)))))

/-- An error writes FAULT once, with its values and HALTED; nothing overwrites it (R26). -/
def Obligations.FaultIsWrittenOnceWithHalt : Prop :=
  ∀ (cfg : Config) (s s' : State), pulse cfg s = .next s' →
    (s.fault = none → s'.fault ≠ none → s'.halted = true ∧
      ((s.stepCount = 1#4 ∧ s'.fault = some (.unknownOpcode (lo8 s.ir) s.ir)) ∨
       (s.mar.toNat < cfg.split.toNat ∧ ∃ w,
        ControlTable.row? cfg.table s.opc s.stepCount.toNat = some w ∧
        s'.fault = some (.illegalWrite s.mar (lo8 (busValue cfg w s)))))) ∧
    ((s.fault ≠ none → s.halted = true) → s.fault ≠ none → s'.fault = s.fault)

/-- Under any well-formed configuration a pulse keeps a sound state sound; under an ill-formed one it is refused (40_datapath.md R106, 40_datapath.md R108, 30_encoding.md R82, 20_memory.md R39). -/
def Obligations.PulseKeepsSoundState : Prop :=
  ∀ (cfg : Config) (s : State),
    (cfg.wellFormed = true → s.Sound cfg → ∃ s', pulse cfg s = .next s' ∧ s'.Sound cfg) ∧
    (cfg.wellFormed = false → pulse cfg s = .refused .illFormedConfig)

/-- The construction state and State.reset are sound (70_reset_and_hazards.md R166, 40_datapath.md R106). The ROM image of State.reset is the model's choice, log entry 2. -/
def Obligations.ConstructionIsSound : Prop :=
  (∀ (cfg : Config) (image : List Byte) (debug : Bool) (s : State),
      State.construct cfg image debug = .next s → s.Sound cfg) ∧
    State.reset.Sound Ref.config

/-- Every CPU address decodes to one byte inside an image, and SPLIT = 0 is refused (R38, R39). -/
def Obligations.EveryAddressIsInsideAnImage : Prop :=
  (∀ (cfg : Config) (addr other : Word), 1 ≤ cfg.split.toNat →
      (addr.toNat < cfg.split.toNat → decodeAddress cfg addr = (.rom, addr.toNat)) ∧
      (cfg.split.toNat ≤ addr.toNat →
        decodeAddress cfg addr = (.ram, addr.toNat - cfg.split.toNat)) ∧
      (decodeAddress cfg addr).2 < 65535 ∧
      (decodeAddress cfg addr = decodeAddress cfg other → addr = other)) ∧
    (∀ addr : Word, (decodeAddress Ref.config addr).2 ≤ 0x7FFF) ∧
    (∀ (cfg : Config) (image : List Byte) (debug : Bool), cfg.split = 0#16 →
      State.construct cfg image debug = .refused .illFormedConfig)

/-- All 256 stack addresses are STACK_BASE + SP, in RAM, without wrap (R47, R48). -/
def Obligations.StackWindowIsRam : Prop :=
  (∀ (cfg : Config) (sp : Byte),
      (stackAddress cfg sp).toNat = (cfg.stackBase.toNat + sp.toNat) % 2 ^ 16 ∧
      (cfg.split.toNat ≤ cfg.stackBase.toNat → cfg.stackBase.toNat ≤ 0xFF00 →
        (stackAddress cfg sp).toNat = cfg.stackBase.toNat + sp.toNat ∧
        decodeAddress cfg (stackAddress cfg sp) =
          (.ram, cfg.stackBase.toNat + sp.toNat - cfg.split.toNat))) ∧
    (∀ sp : Byte, decodeAddress Ref.config (stackAddress Ref.config sp) = (.ram, 0x7F00 + sp.toNat)) ∧
    (∀ (cfg : Config) (image : List Byte) (debug : Bool),
      ¬(cfg.split.toNat ≤ cfg.stackBase.toNat ∧ cfg.stackBase.toNat ≤ 0xFF00) →
      State.construct cfg image debug = .refused .illFormedConfig)

/-- ADD then ADC adds 32-bit numbers, SUB then SBC subtracts them (43_alu.md R134). -/
def Obligations.MultiWordArithmeticChains : Prop :=
  ∀ (aHi aLo bHi bLo : Word) (cin : Bool),
    ((alu .adc aHi bHi (alu .add aLo bLo cin).carryOut).result.toNat * 2 ^ 16 +
        (alu .add aLo bLo cin).result.toNat =
      (aHi.toNat * 2 ^ 16 + aLo.toNat + (bHi.toNat * 2 ^ 16 + bLo.toNat)) % 2 ^ 32 ∧
     (alu .adc aHi bHi (alu .add aLo bLo cin).carryOut).carryOut =
      decide (2 ^ 32 ≤ aHi.toNat * 2 ^ 16 + aLo.toNat + (bHi.toNat * 2 ^ 16 + bLo.toNat))) ∧
    ((alu .sbc aHi bHi (alu .sub aLo bLo cin).carryOut).result.toNat * 2 ^ 16 +
        (alu .sub aLo bLo cin).result.toNat =
      (aHi.toNat * 2 ^ 16 + aLo.toNat + 2 ^ 32 - (bHi.toNat * 2 ^ 16 + bLo.toNat)) % 2 ^ 32 ∧
     (alu .sbc aHi bHi (alu .sub aLo bLo cin).carryOut).carryOut =
      decide (bHi.toNat * 2 ^ 16 + bLo.toNat ≤ aHi.toNat * 2 ^ 16 + aLo.toNat))

/-- SIS16-REF and the default configuration are well-formed, with one driver a row at most (30_encoding.md R82, 70_reset_and_hazards.md R172, 10_state.md R16). -/
def Obligations.ReferenceTableIsWellFormed : Prop :=
  Ref.config.wellFormed = true ∧
    ∀ r ∈ Ref.table, r.word.drive.length ≤ 1 ∧ LatchTarget.ir ∉ r.word.latch

/-- The decoder accepts exactly the opcodes that have rows, and rejects the 220 unknown ones by name (30_encoding.md R62, 30_encoding.md R68, 30_encoding.md R69, 30_encoding.md R66). -/
def Obligations.DecoderAndTableAgree : Prop :=
  ∀ op x y : Byte,
    (ControlTable.defined Ref.config.table op = true ↔
      ∃ i, opcodeOf i = op ∧ decode [op, x, y] = .ok (i, [op, x, y].drop (lengthOf i))) ∧
    (ControlTable.defined Ref.config.table op = false ↔
      decode [op, x, y] = .error (.unknownOpcode op)) ∧
    (decode [op, x, y] = .error (.unknownOpcode op) ↔ unknownByR68 op = true)

/-- Decoding an encoded instruction gives it back, for every instruction and operand (30_encoding.md R63, 30_encoding.md R64, 30_encoding.md R65, 30_encoding.md R67). -/
def Obligations.DecodeOfEncode : Prop :=
  ∀ (i : Instr) (rest : List Byte), i.wellFormed = true →
    decode (encode i ++ rest) = .ok (i, rest) ∧ (encode i).length = lengthOf i

/-- Encoding a decoded instruction gives its bytes back (30_encoding.md R63, 30_encoding.md R69). -/
def Obligations.EncodeOfDecode : Prop :=
  ∀ (bytes rest : List Byte) (i : Instr), decode bytes = .ok (i, rest) →
    encode i ++ rest = bytes

/-- Words written out from the opcode map decode to their instructions (30_encoding.md R67, 95_test_vectors.md). -/
def Obligations.KnownWordsDecode : Prop :=
  decodeTableWord 16 0x0501 = some (.ldiA 0x05#8) ∧
    decodeTableWord 24 0xA00005 = some (.sta 0xA000#16) ∧
    decodeTableWord 8 0x13 = some .movSpA ∧
    decodeTableWord 8 0x2C = some .cmp ∧
    decodeTableWord 24 0x000A38 = some (.call 0x000A#16) ∧
    decodeTableWord 8 0x41 = some .popA ∧
    decodeTableWord 8 0xFF = some .hlt ∧
    decodeTableWord 8 0x09 = none

/-- A step at an instruction boundary is exec of the decoded instruction after fetch and decode (40_datapath.md R84, 40_datapath.md R85, 40_datapath.md R102). That a
step is a whole instruction is the model's choice, log entry 1. -/
def Obligations.StepRunsDecodedInstruction : Prop :=
  ∀ (s : State) (i : Instr) (rest : List Byte), s.halted = false → s.stepCount = 0#4 →
    decode (bytesAtPc Ref.config s) = .ok (i, rest) →
      step s = exec i { s with
        mar := s.pc, ir := zext16 (opcodeOf i), pc := s.pc + 1#16, opc := opcodeOf i,
        stepCount := 2#4 }

/-- Each instruction's step equals its pulses run on the rows of SIS16-REF, as many as the spec says (40_datapath.md R102, 70_reset_and_hazards.md R175, 30_encoding.md R72, 20_memory.md R59). That a
step is a whole instruction, and decodes its bytes at the boundary, is the model's own, log entries 1 and 9. -/
def Obligations.StepEqualsItsPulses : Prop :=
  ∀ (s : State) (i : Instr) (rest : List Byte), s.halted = false → s.stepCount = 0#4 →
    decode (bytesAtPc Ref.config s) = .ok (i, rest) →
      runPulses Ref.config (pulsesByR175 i) s = step s ∧
      ∀ n, 0 < n → n < pulsesByR175 i →
        ∃ m, runPulses Ref.config n s = .next m ∧ m.halted = false ∧ m.stepCount.toNat = n

/-- A step of a running sound machine is pulses until the sequencer is back at fetch or halted (40_datapath.md R102). That the
model's step does so, and finishes an instruction under way, is the model's choice, log entries 1 and 6. -/
def Obligations.StepIsPulsesToTheBoundary : Prop :=
  ∀ s : State, s.Sound Ref.config → s.halted = false →
    step s = pulsesToBoundary Ref.config 16 s

/-- A step from a sound state answers a sound state at an instruction boundary (40_datapath.md R102, 40_datapath.md R106, 20_memory.md R39). The
step is the model's choice, log entries 1 and 6. -/
def Obligations.StepKeepsSoundState : Prop :=
  ∀ s : State, s.Sound Ref.config →
    ∃ s', step s = .next s' ∧ s'.Sound Ref.config ∧ (s'.halted = true ∨ s'.stepCount = 0#4)

/-- Each of the 220 unknown opcodes halts in its second pulse with UnknownOpcode (R68, R148). `takes` rests on log entry 1. -/
def Obligations.UnknownOpcodeStep : Prop :=
  (∀ s : State, s.halted = false → s.stepCount = 0#4 → unknownByR68 (opcodeAt s) = true →
      takes 2 s { s with
        mar := s.pc, ir := zext16 (opcodeAt s), pc := s.pc + 1#16, opc := opcodeAt s,
        stepCount := 1#4, halted := true,
        fault := some (.unknownOpcode (opcodeAt s) (zext16 (opcodeAt s))) }) ∧
    ((List.range 256).filter fun n => unknownByR68 (BitVec.ofNat 8 n)).length = 220

/-- withFetchWord places a word where the next step fetches it, and that step runs it (30_encoding.md R63, 40_datapath.md R84). The
placement is the model's own, log entry 2. -/
def Obligations.FetchWordRunsItsInstruction : Prop :=
  ∀ (s : State) (nbits w : Nat), s.rom.wf = true → s.ram.wf = true →
    bytesAtPc Ref.config (s.withFetchWord nbits w) = tableWordBytes nbits w ∧
    ∀ i, decodeTableWord nbits w = some i →
      step (s.withFetchWord nbits w) = exec i (afterDecode Ref.config (s.withFetchWord nbits w))

/-- LDI A and LDI B load the zero-extended operand byte (R109, R110). `takes` rests on log entry 1. -/
def Obligations.LoadImmediateResults : Prop :=
  (∀ (imm : Byte) (s : State), exec (.ldiA imm) s = .next { s with
      mar := s.pc, a := zext16 imm, pc := s.pc + 1#16, stepCount := 0#4 }) ∧
    (∀ (imm : Byte) (s : State), exec (.ldiB imm) s = .next { s with
      mar := s.pc, b := zext16 imm, pc := s.pc + 1#16, stepCount := 0#4 }) ∧
    (∀ s : State, s.halted = false → s.stepCount = 0#4 → opcodeAt s = 0x01#8 →
      takes 4 s { afterF1 0x01#8 s with a := zext16 (imm8At s) }) ∧
    (∀ s : State, s.halted = false → s.stepCount = 0#4 → opcodeAt s = 0x02#8 →
      takes 4 s { afterF1 0x02#8 s with b := zext16 (imm8At s) })

/-- LDA and LDB load the zero-extended byte at the operand address (R111, R112). `takes` rests on log entry 1. -/
def Obligations.LoadAbsoluteResults : Prop :=
  (∀ (ea : Word) (s : State), exec (.lda ea) s = .next { s with
      t := ea, mar := ea, a := zext16 (memRead Ref.config s ea), pc := s.pc + 2#16,
      stepCount := 0#4 }) ∧
    (∀ (ea : Word) (s : State), exec (.ldb ea) s = .next { s with
      t := ea, mar := ea, b := zext16 (memRead Ref.config s ea), pc := s.pc + 2#16,
      stepCount := 0#4 }) ∧
    (∀ s : State, s.halted = false → s.stepCount = 0#4 → opcodeAt s = 0x03#8 →
      takes 8 s { afterF2 0x03#8 s with
        mar := addr16At s, a := zext16 (memRead Ref.config s (addr16At s)) }) ∧
    (∀ s : State, s.halted = false → s.stepCount = 0#4 → opcodeAt s = 0x04#8 →
      takes 8 s { afterF2 0x04#8 s with
        mar := addr16At s, b := zext16 (memRead Ref.config s (addr16At s)) })

/-- STA and STB store the low byte at the operand address, or halt in step 7 on a ROM address (R113, R114). `takes` rests on log entry 1. -/
def Obligations.StoreAbsoluteResults : Prop :=
  (∀ (ea : Word) (s : State), 0x8000 ≤ ea.toNat → exec (.sta ea) s = .next { s with
      t := ea, mar := ea, pc := s.pc + 2#16, stepCount := 0#4,
      ram := writeCell s.ram (ea.toNat - 0x8000) (lo8 s.a) }) ∧
    (∀ (ea : Word) (s : State), ea.toNat < 0x8000 → exec (.sta ea) s = .next { s with
      t := ea, mar := ea, pc := s.pc + 2#16, stepCount := 7#4, halted := true,
      fault := some (.illegalWrite ea (lo8 s.a)) }) ∧
    (∀ (ea : Word) (s : State), 0x8000 ≤ ea.toNat → exec (.stb ea) s = .next { s with
      t := ea, mar := ea, pc := s.pc + 2#16, stepCount := 0#4,
      ram := writeCell s.ram (ea.toNat - 0x8000) (lo8 s.b) }) ∧
    (∀ (ea : Word) (s : State), ea.toNat < 0x8000 → exec (.stb ea) s = .next { s with
      t := ea, mar := ea, pc := s.pc + 2#16, stepCount := 7#4, halted := true,
      fault := some (.illegalWrite ea (lo8 s.b)) }) ∧
    (∀ s : State, s.halted = false → s.stepCount = 0#4 → opcodeAt s = 0x05#8 → 0x8000 ≤ (addr16At s).toNat →
      takes 8 s { afterF2 0x05#8 s with
        mar := addr16At s,
        ram := writeCell s.ram ((addr16At s).toNat - 0x8000) (lo8 s.a) }) ∧
    (∀ s : State, s.halted = false → s.stepCount = 0#4 → opcodeAt s = 0x05#8 → (addr16At s).toNat < 0x8000 →
      takes 8 s { afterF2 0x05#8 s with
        mar := addr16At s, stepCount := 7#4, halted := true,
        fault := some (.illegalWrite (addr16At s) (lo8 s.a)) }) ∧
    (∀ s : State, s.halted = false → s.stepCount = 0#4 → opcodeAt s = 0x06#8 → 0x8000 ≤ (addr16At s).toNat →
      takes 8 s { afterF2 0x06#8 s with
        mar := addr16At s,
        ram := writeCell s.ram ((addr16At s).toNat - 0x8000) (lo8 s.b) }) ∧
    (∀ s : State, s.halted = false → s.stepCount = 0#4 → opcodeAt s = 0x06#8 → (addr16At s).toNat < 0x8000 →
      takes 8 s { afterF2 0x06#8 s with
        mar := addr16At s, stepCount := 7#4, halted := true,
        fault := some (.illegalWrite (addr16At s) (lo8 s.b)) })

/-- LDX loads from and STX stores to the address in B (R115, R116). `takes` rests on log entry 1. -/
def Obligations.IndirectAccessResults : Prop :=
  (∀ s : State, exec .ldx s = .next { s with
      mar := s.b, a := zext16 (memRead Ref.config s s.b), stepCount := 0#4 }) ∧
    (∀ s : State, 0x8000 ≤ s.b.toNat → exec .stx s = .next { s with
      mar := s.b, stepCount := 0#4, ram := writeCell s.ram (s.b.toNat - 0x8000) (lo8 s.a) }) ∧
    (∀ s : State, s.b.toNat < 0x8000 → exec .stx s = .next { s with
      mar := s.b, stepCount := 3#4, halted := true,
      fault := some (.illegalWrite s.b (lo8 s.a)) }) ∧
    (∀ s : State, s.halted = false → s.stepCount = 0#4 → opcodeAt s = 0x07#8 →
      takes 4 s { afterF0 0x07#8 s with
        mar := s.b, a := zext16 (memRead Ref.config s s.b) }) ∧
    (∀ s : State, s.halted = false → s.stepCount = 0#4 → opcodeAt s = 0x08#8 → 0x8000 ≤ s.b.toNat →
      takes 4 s { afterF0 0x08#8 s with
        mar := s.b, ram := writeCell s.ram (s.b.toNat - 0x8000) (lo8 s.a) }) ∧
    (∀ s : State, s.halted = false → s.stepCount = 0#4 → opcodeAt s = 0x08#8 → s.b.toNat < 0x8000 →
      takes 4 s { afterF0 0x08#8 s with
        mar := s.b, stepCount := 3#4, halted := true,
        fault := some (.illegalWrite s.b (lo8 s.a)) })

/-- The four register moves (R117, R118, R119, R120). `takes` rests on log entry 1. -/
def Obligations.MoveResults : Prop :=
  (∀ s : State, exec .movAB s = .next { s with
        a := s.b, stepCount := 0#4 }) ∧
    (∀ s : State, exec .movBA s = .next { s with
        b := s.a, stepCount := 0#4 }) ∧
    (∀ s : State, exec .movASp s = .next { s with
        a := zext16 s.sp, stepCount := 0#4 }) ∧
    (∀ s : State, exec .movSpA s = .next { s with
        sp := lo8 s.a, stepCount := 0#4 }) ∧
    (∀ s : State, s.halted = false → s.stepCount = 0#4 → opcodeAt s = 0x10#8 →
      takes 3 s { afterF0 0x10#8 s with
        a := s.b }) ∧
    (∀ s : State, s.halted = false → s.stepCount = 0#4 → opcodeAt s = 0x11#8 →
      takes 3 s { afterF0 0x11#8 s with
        b := s.a }) ∧
    (∀ s : State, s.halted = false → s.stepCount = 0#4 → opcodeAt s = 0x12#8 →
      takes 3 s { afterF0 0x12#8 s with
        a := zext16 s.sp }) ∧
    (∀ s : State, s.halted = false → s.stepCount = 0#4 → opcodeAt s = 0x13#8 →
      takes 3 s { afterF0 0x13#8 s with
        sp := lo8 s.a })

/-- ADD, ADC, SUB and SBC: A, C and Z (R121, R122, R123, R124). `takes` rests on log entry 1. -/
def Obligations.AddSubtractResults : Prop :=
  (∀ s : State, exec .add s = .next { s with
        a := s.a + s.b, c := decide (2 ^ 16 ≤ s.a.toNat + s.b.toNat), z := decide (s.a + s.b = 0#16), stepCount := 0#4 }) ∧
    (∀ s : State, exec .adc s = .next { s with
        a := s.a + s.b + BitVec.ofNat 16 s.c.toNat, c := decide (2 ^ 16 ≤ s.a.toNat + s.b.toNat + s.c.toNat), z := decide (s.a + s.b + BitVec.ofNat 16 s.c.toNat = 0#16), stepCount := 0#4 }) ∧
    (∀ s : State, exec .sub s = .next { s with
        a := s.a - s.b, c := decide (s.b.toNat ≤ s.a.toNat), z := decide (s.a - s.b = 0#16), stepCount := 0#4 }) ∧
    (∀ s : State, exec .sbc s = .next { s with
        a := s.a - s.b - 1#16 + BitVec.ofNat 16 s.c.toNat, c := decide (s.b.toNat + 1 ≤ s.a.toNat + s.c.toNat), z := decide (s.a - s.b - 1#16 + BitVec.ofNat 16 s.c.toNat = 0#16), stepCount := 0#4 }) ∧
    (∀ s : State, s.halted = false → s.stepCount = 0#4 → opcodeAt s = 0x20#8 →
      takes 3 s { afterF0 0x20#8 s with
        a := s.a + s.b, c := decide (2 ^ 16 ≤ s.a.toNat + s.b.toNat), z := decide (s.a + s.b = 0#16) }) ∧
    (∀ s : State, s.halted = false → s.stepCount = 0#4 → opcodeAt s = 0x21#8 →
      takes 3 s { afterF0 0x21#8 s with
        a := s.a + s.b + BitVec.ofNat 16 s.c.toNat, c := decide (2 ^ 16 ≤ s.a.toNat + s.b.toNat + s.c.toNat), z := decide (s.a + s.b + BitVec.ofNat 16 s.c.toNat = 0#16) }) ∧
    (∀ s : State, s.halted = false → s.stepCount = 0#4 → opcodeAt s = 0x22#8 →
      takes 3 s { afterF0 0x22#8 s with
        a := s.a - s.b, c := decide (s.b.toNat ≤ s.a.toNat), z := decide (s.a - s.b = 0#16) }) ∧
    (∀ s : State, s.halted = false → s.stepCount = 0#4 → opcodeAt s = 0x23#8 →
      takes 3 s { afterF0 0x23#8 s with
        a := s.a - s.b - 1#16 + BitVec.ofNat 16 s.c.toNat, c := decide (s.b.toNat + 1 ≤ s.a.toNat + s.c.toNat), z := decide (s.a - s.b - 1#16 + BitVec.ofNat 16 s.c.toNat = 0#16) })

/-- AND, OR, XOR and NOT: A and Z, with C unchanged (R125, R126, R127, R128). `takes` rests on log entry 1. -/
def Obligations.LogicResults : Prop :=
  (∀ s : State, exec .and s = .next { s with
        a := s.a &&& s.b, z := decide (s.a &&& s.b = 0#16), stepCount := 0#4 }) ∧
    (∀ s : State, exec .or s = .next { s with
        a := s.a ||| s.b, z := decide (s.a ||| s.b = 0#16), stepCount := 0#4 }) ∧
    (∀ s : State, exec .xor s = .next { s with
        a := s.a ^^^ s.b, z := decide (s.a ^^^ s.b = 0#16), stepCount := 0#4 }) ∧
    (∀ s : State, exec .not s = .next { s with
        a := 0xFFFF#16 - s.a, z := decide (0xFFFF#16 - s.a = 0#16), stepCount := 0#4 }) ∧
    (∀ s : State, s.halted = false → s.stepCount = 0#4 → opcodeAt s = 0x24#8 →
      takes 3 s { afterF0 0x24#8 s with
        a := s.a &&& s.b, z := decide (s.a &&& s.b = 0#16) }) ∧
    (∀ s : State, s.halted = false → s.stepCount = 0#4 → opcodeAt s = 0x25#8 →
      takes 3 s { afterF0 0x25#8 s with
        a := s.a ||| s.b, z := decide (s.a ||| s.b = 0#16) }) ∧
    (∀ s : State, s.halted = false → s.stepCount = 0#4 → opcodeAt s = 0x26#8 →
      takes 3 s { afterF0 0x26#8 s with
        a := s.a ^^^ s.b, z := decide (s.a ^^^ s.b = 0#16) }) ∧
    (∀ s : State, s.halted = false → s.stepCount = 0#4 → opcodeAt s = 0x27#8 →
      takes 3 s { afterF0 0x27#8 s with
        a := 0xFFFF#16 - s.a, z := decide (0xFFFF#16 - s.a = 0#16) })

/-- SHL, SHR, INC and DEC: A, C and Z (R129, R130, R131, R132). `takes` rests on log entry 1. -/
def Obligations.ShiftAndCountResults : Prop :=
  (∀ s : State, exec .shl s = .next { s with
        a := s.a <<< 1, c := s.a.msb, z := decide (s.a <<< 1 = 0#16), stepCount := 0#4 }) ∧
    (∀ s : State, exec .shr s = .next { s with
        a := s.a >>> 1, c := decide (s.a.toNat % 2 = 1), z := decide (s.a >>> 1 = 0#16), stepCount := 0#4 }) ∧
    (∀ s : State, exec .inc s = .next { s with
        a := s.a + 1#16, c := decide (s.a = 0xFFFF#16), z := decide (s.a + 1#16 = 0#16), stepCount := 0#4 }) ∧
    (∀ s : State, exec .dec s = .next { s with
        a := s.a - 1#16, c := decide (s.a ≠ 0#16), z := decide (s.a - 1#16 = 0#16), stepCount := 0#4 }) ∧
    (∀ s : State, s.halted = false → s.stepCount = 0#4 → opcodeAt s = 0x28#8 →
      takes 3 s { afterF0 0x28#8 s with
        a := s.a <<< 1, c := s.a.msb, z := decide (s.a <<< 1 = 0#16) }) ∧
    (∀ s : State, s.halted = false → s.stepCount = 0#4 → opcodeAt s = 0x29#8 →
      takes 3 s { afterF0 0x29#8 s with
        a := s.a >>> 1, c := decide (s.a.toNat % 2 = 1), z := decide (s.a >>> 1 = 0#16) }) ∧
    (∀ s : State, s.halted = false → s.stepCount = 0#4 → opcodeAt s = 0x2A#8 →
      takes 3 s { afterF0 0x2A#8 s with
        a := s.a + 1#16, c := decide (s.a = 0xFFFF#16), z := decide (s.a + 1#16 = 0#16) }) ∧
    (∀ s : State, s.halted = false → s.stepCount = 0#4 → opcodeAt s = 0x2B#8 →
      takes 3 s { afterF0 0x2B#8 s with
        a := s.a - 1#16, c := decide (s.a ≠ 0#16), z := decide (s.a - 1#16 = 0#16) })

/-- CMP sets C to A >= B and Z to A = B, and keeps A (R133). `takes` rests on log entry 1. -/
def Obligations.CompareResults : Prop :=
  (∀ s : State, exec .cmp s = .next { s with
        c := decide (s.b.toNat ≤ s.a.toNat), z := decide (s.a = s.b), stepCount := 0#4 }) ∧
    (∀ s : State, s.halted = false → s.stepCount = 0#4 → opcodeAt s = 0x2C#8 →
      takes 3 s { afterF0 0x2C#8 s with
        c := decide (s.b.toNat ≤ s.a.toNat), z := decide (s.a = s.b) })

/-- JMP jumps; JC, JNC, JZ and JNZ jump on their flag and else fall through (R135, R136, R137, R138, R139). `takes` rests on log entry 1. -/
def Obligations.JumpResults : Prop :=
  (∀ (target : Word) (s : State), exec (.jmp target) s = .next { s with
      t := target, mar := s.pc + 1#16, pc := target, stepCount := 0#4 }) ∧
    (∀ (target : Word) (s : State), exec (.jc target) s = .next { s with
      t := target, mar := s.pc + 1#16, pc := if s.c = true then target else s.pc + 2#16, stepCount := 0#4 }) ∧
    (∀ (target : Word) (s : State), exec (.jnc target) s = .next { s with
      t := target, mar := s.pc + 1#16, pc := if s.c = false then target else s.pc + 2#16, stepCount := 0#4 }) ∧
    (∀ (target : Word) (s : State), exec (.jz target) s = .next { s with
      t := target, mar := s.pc + 1#16, pc := if s.z = true then target else s.pc + 2#16, stepCount := 0#4 }) ∧
    (∀ (target : Word) (s : State), exec (.jnz target) s = .next { s with
      t := target, mar := s.pc + 1#16, pc := if s.z = false then target else s.pc + 2#16, stepCount := 0#4 }) ∧
    (∀ s : State, s.halted = false → s.stepCount = 0#4 → opcodeAt s = 0x30#8 →
      takes 7 s { afterF2 0x30#8 s with pc := addr16At s }) ∧
    (∀ s : State, s.halted = false → s.stepCount = 0#4 → opcodeAt s = 0x31#8 →
      takes 7 s { afterF2 0x31#8 s with pc := if s.c = true then addr16At s else s.pc + 3#16 }) ∧
    (∀ s : State, s.halted = false → s.stepCount = 0#4 → opcodeAt s = 0x32#8 →
      takes 7 s { afterF2 0x32#8 s with pc := if s.c = false then addr16At s else s.pc + 3#16 }) ∧
    (∀ s : State, s.halted = false → s.stepCount = 0#4 → opcodeAt s = 0x33#8 →
      takes 7 s { afterF2 0x33#8 s with pc := if s.z = true then addr16At s else s.pc + 3#16 }) ∧
    (∀ s : State, s.halted = false → s.stepCount = 0#4 → opcodeAt s = 0x34#8 →
      takes 7 s { afterF2 0x34#8 s with pc := if s.z = false then addr16At s else s.pc + 3#16 })

/-- CALL pushes the return address little-endian and jumps (R140). `takes` rests on log entry 1. -/
def Obligations.CallResults : Prop :=
  (∀ (target : Word) (s : State), exec (.call target) s = .next { s with
      t := target, sp := s.sp - 2#8, mar := 0xFF00#16 + zext16 (s.sp - 2#8), pc := target,
      stepCount := 0#4, ram := pushedReturn s (s.pc + 2#16) }) ∧
    (∀ s : State, s.halted = false → s.stepCount = 0#4 → opcodeAt s = 0x38#8 →
      takes 11 s { afterF2 0x38#8 s with
        sp := s.sp - 2#8, mar := 0xFF00#16 + zext16 (s.sp - 2#8), pc := addr16At s,
        ram := pushedReturn s (s.pc + 3#16) }) ∧
    (∀ (s : State) (ret x : Word), s.ram.wf = true →
      memRead Ref.config { s with ram := pushedReturn s ret } x =
        if x = 0xFF00#16 + zext16 (s.sp - 1#8) then hi8 ret
        else if x = 0xFF00#16 + zext16 (s.sp - 2#8) then lo8 ret
        else memRead Ref.config s x)

/-- RET pops the return address, low byte first, into PC (R141). `takes` rests on log entry 1. -/
def Obligations.ReturnResults : Prop :=
  (∀ s : State, exec .ret s = .next { s with
      t := poppedReturn s, sp := s.sp + 2#8, mar := 0xFF00#16 + zext16 (s.sp + 1#8),
      pc := poppedReturn s, stepCount := 0#4 }) ∧
    (∀ s : State, s.halted = false → s.stepCount = 0#4 → opcodeAt s = 0x39#8 →
      takes 7 s { afterF0 0x39#8 s with
        t := poppedReturn s, sp := s.sp + 2#8, mar := 0xFF00#16 + zext16 (s.sp + 1#8),
        pc := poppedReturn s })

/-- PUSH A stores the low byte of A below SP; POP A loads it back zero-extended (R143, R144). `takes` rests on log entry 1. -/
def Obligations.PushPopResults : Prop :=
  (∀ s : State, exec .pushA s = .next { s with
        sp := s.sp - 1#8, mar := 0xFF00#16 + zext16 (s.sp - 1#8),
        ram := writeCell s.ram (0x7F00 + (s.sp - 1#8).toNat) (lo8 s.a), stepCount := 0#4 }) ∧
    (∀ s : State, exec .popA s = .next { s with
        mar := 0xFF00#16 + zext16 s.sp, sp := s.sp + 1#8,
        a := zext16 (memRead Ref.config s (0xFF00#16 + zext16 s.sp)), stepCount := 0#4 }) ∧
    (∀ s : State, s.halted = false → s.stepCount = 0#4 → opcodeAt s = 0x40#8 →
      takes 5 s { afterF0 0x40#8 s with
        sp := s.sp - 1#8, mar := 0xFF00#16 + zext16 (s.sp - 1#8),
        ram := writeCell s.ram (0x7F00 + (s.sp - 1#8).toNat) (lo8 s.a) }) ∧
    (∀ s : State, s.halted = false → s.stepCount = 0#4 → opcodeAt s = 0x41#8 →
      takes 4 s { afterF0 0x41#8 s with
        mar := 0xFF00#16 + zext16 s.sp, sp := s.sp + 1#8,
        a := zext16 (memRead Ref.config s (0xFF00#16 + zext16 s.sp)) })

/-- NOP changes nothing but PC; HLT sets HALTED with STEP left at 2 (R145, R146). `takes` rests on log entry 1. -/
def Obligations.NopAndHaltResults : Prop :=
  (∀ s : State, exec .nop s = .next { s with stepCount := 0#4 }) ∧
    (∀ s : State, exec .hlt s = .next { s with halted := true }) ∧
    (∀ s : State, s.halted = false → s.stepCount = 0#4 → opcodeAt s = 0x00#8 → takes 3 s (afterF0 0x00#8 s)) ∧
    (∀ s : State, s.halted = false → s.stepCount = 0#4 → opcodeAt s = 0xFF#8 →
      takes 3 s { afterF0 0xFF#8 s with stepCount := 2#4, halted := true })

/-- Moves, ALU instructions, NOP and HLT change only their destination, their flags and HALTED (10_state.md R33, 10_state.md R34, 42_move.md, 43_alu.md). -/
def Obligations.RegisterInstructionsFrame : Prop :=
  ∀ (i : Instr) (s t : State), registerOnly i = true → exec i s = .next t →
    (writesA i = false → t.a = s.a) ∧ (writesB i = false → t.b = s.b) ∧
    (writesSp i = false → t.sp = s.sp) ∧ (writesC i = false → t.c = s.c) ∧
    (writesZ i = false → t.z = s.z) ∧ t.t = s.t ∧ t.mar = s.mar ∧ t.ir = s.ir ∧ t.opc = s.opc ∧
    t.fault = s.fault ∧ t.pc = s.pc ∧ (i ≠ .hlt → t.halted = s.halted) ∧
    ∀ x, memRead Ref.config t x = memRead Ref.config s x

/-- The loads, POP A and RET change only their destination, T, SP, MAR and PC (10_state.md R33, 10_state.md R34, 20_memory.md R53). -/
def Obligations.LoadsFrame : Prop :=
  ∀ (i : Instr) (s t : State), loadsOnly i = true → exec i s = .next t →
    (writesA i = false → t.a = s.a) ∧ (writesB i = false → t.b = s.b) ∧
    (writesT i = false → t.t = s.t) ∧ (writesSp i = false → t.sp = s.sp) ∧
    t.c = s.c ∧ t.z = s.z ∧ t.ir = s.ir ∧ t.opc = s.opc ∧ t.halted = s.halted ∧ t.fault = s.fault ∧
    ∀ x, memRead Ref.config t x = memRead Ref.config s x

/-- STA, STB and STX change one RAM byte at their address, MAR, PC and, for STA and STB, T (10_state.md R34, 20_memory.md R42, 41_load_store.md R113, 41_load_store.md R114, 41_load_store.md R116). -/
def Obligations.StoresFrame : Prop :=
  ∀ (i : Instr) (ea : Word) (s t : State), storeAddress i s = some ea → s.ram.wf = true →
    exec i s = .next t →
    t.a = s.a ∧ t.b = s.b ∧ t.sp = s.sp ∧ t.c = s.c ∧ t.z = s.z ∧ t.ir = s.ir ∧ t.opc = s.opc ∧
    (i = .stx → t.t = s.t) ∧
    (∀ x, x ≠ ea → memRead Ref.config t x = memRead Ref.config s x) ∧
    ((decodeAddress Ref.config ea).1 = .rom →
      ∀ x, memRead Ref.config t x = memRead Ref.config s x) ∧
    ((decodeAddress Ref.config ea).1 = .ram → t.halted = s.halted ∧ t.fault = s.fault)

/-- The jumps change only T, MAR and PC (10_state.md R34, 44_control.md R135, 44_control.md R136, 44_control.md R137, 44_control.md R138, 44_control.md R139). -/
def Obligations.JumpsFrame : Prop :=
  ∀ (i : Instr) (s t : State), jumps i = true → exec i s = .next t →
    t.a = s.a ∧ t.b = s.b ∧ t.sp = s.sp ∧ t.c = s.c ∧ t.z = s.z ∧ t.ir = s.ir ∧ t.opc = s.opc ∧
    t.halted = s.halted ∧ t.fault = s.fault ∧
    ∀ x, memRead Ref.config t x = memRead Ref.config s x

/-- PUSH A and CALL change only the stack bytes they store, SP, MAR, PC and, for CALL, T (10_state.md R34, 44_control.md R140, 45_stack.md R143, 20_memory.md R48). -/
def Obligations.StackStoresFrame : Prop :=
  (∀ s t : State, s.ram.wf = true → exec .pushA s = .next t →
      t.a = s.a ∧ t.b = s.b ∧ t.t = s.t ∧ t.c = s.c ∧ t.z = s.z ∧ t.pc = s.pc ∧ t.ir = s.ir ∧
      t.opc = s.opc ∧ t.halted = s.halted ∧ t.fault = s.fault ∧
      ∀ x, x ≠ stackAddress Ref.config (s.sp - 1#8) →
        memRead Ref.config t x = memRead Ref.config s x) ∧
    (∀ (target : Word) (s t : State), s.ram.wf = true → exec (.call target) s = .next t →
      t.a = s.a ∧ t.b = s.b ∧ t.c = s.c ∧ t.z = s.z ∧ t.ir = s.ir ∧ t.opc = s.opc ∧
      t.halted = s.halted ∧ t.fault = s.fault ∧
      ∀ x, x ≠ stackAddress Ref.config (s.sp - 1#8) → x ≠ stackAddress Ref.config (s.sp - 2#8) →
        memRead Ref.config t x = memRead Ref.config s x)

/-- Of all instructions only STA, STB and STX to ROM fault, and only they and HLT halt (60_exceptions.md R149, 60_exceptions.md R151, 46_system.md R146). -/
def Obligations.OnlyRomStoresFault : Prop :=
  ∀ (i : Instr) (s t : State), exec i s = .next t →
    (t.fault ≠ s.fault → ∃ ea, storeAddress i s = some ea ∧ ea.toNat < 0x8000) ∧
    (s.halted = false → t.halted = true →
      i = .hlt ∨ ∃ ea, storeAddress i s = some ea ∧ ea.toNat < 0x8000)

/-- A RET with the stack CALL left returns past the CALL and restores SP (44_control.md R140, 44_control.md R141, 20_memory.md R49). -/
def Obligations.ReturnUndoesCall : Prop :=
  ∀ (s t u : State) (target : Word), s.ram.wf = true → exec (.call target) s = .next t →
    u.ram = t.ram → u.sp = t.sp →
      ∃ v, exec .ret u = .next v ∧ v.pc = s.pc + 2#16 ∧ v.sp = s.sp

/-- A POP A with the stack PUSH A left loads the byte pushed and restores SP (45_stack.md R143, 45_stack.md R144, 20_memory.md R49). -/
def Obligations.PopUndoesPush : Prop :=
  ∀ s t u : State, s.ram.wf = true → exec .pushA s = .next t → u.ram = t.ram → u.sp = t.sp →
    ∃ v, exec .popA u = .next v ∧ v.a = zext16 (lo8 s.a) ∧ v.sp = s.sp

/-- A register an instruction does not read changes nothing else of its outcome (10_state.md R34, 10_state.md R21, 41_load_store.md R109 to R116, 42_move.md R117 to R120, 43_alu.md R121 to R133, 44_control.md R135 to R141, 45_stack.md R143, R144, 46_system.md R145, R146). 
R34 lists readers of T and MAR too; their rows latch both before use. The logic instructions pass C through (R21). -/
def Obligations.UnreadRegistersDoNotMatter : Prop :=
  ∀ (i : Instr) (s t : State), exec i s = .next t →
    (∀ x, readsA i = false →
      exec i { s with a := x } = .next { t with a := if writesA i then t.a else x }) ∧
    (∀ x, readsB i = false →
      exec i { s with b := x } = .next { t with b := if writesB i then t.b else x }) ∧
    (∀ x, readsSp i = false →
      exec i { s with sp := x } = .next { t with sp := if writesSp i then t.sp else x }) ∧
    (∀ x, readsC i = false →
      exec i { s with c := x } = .next { t with c := if writesC i then t.c else x }) ∧
    (∀ x, readsZ i = false →
      exec i { s with z := x } = .next { t with z := if writesZ i then t.z else x }) ∧
    (∀ mar ir tt opc, exec i { s with mar := mar, ir := ir, t := tt, opc := opc } =
      .next { t with
        mar := (if writesMar i then t.mar else mar), ir := ir,
        t := (if writesT i then t.t else tt), opc := opc })
end

