-- ==== Sys2Proof/Laws/Bits.lean ====
section
/-! SUPPORT. The bit-field helpers: their bits, the halves of a concatenation, and the halves written by TL and
TH. -/
namespace Sys2Proof.Machine

theorem getLsbD_catBytes (h l : Byte) (i : Nat) :
    (catBytes h l).getLsbD i = if i < 8 then l.getLsbD i else h.getLsbD (i - 8) := by
  have e : (catBytes h l).getLsbD i = (h ++ l : BitVec (8 + 8)).getLsbD i := rfl
  rw [e, BitVec.getLsbD_append]

theorem getLsbD_lo8 (v : Word) (i : Nat) : (lo8 v).getLsbD i = (decide (i < 8) && v.getLsbD i) := by
  simp [lo8]

theorem getLsbD_hi8 (v : Word) (i : Nat) :
    (hi8 v).getLsbD i = (decide (i < 8) && v.getLsbD (8 + i)) := by
  simp [hi8]

theorem getLsbD_zext16 (b : Byte) (i : Nat) : (zext16 b).getLsbD i = (decide (i < 16) && b.getLsbD i) := by
  simp [zext16]

@[simp] theorem lo8_catBytes (h l : Byte) : lo8 (catBytes h l) = l := by
  refine BitVec.eq_of_getLsbD_eq fun i hi => ?_
  rw [getLsbD_lo8, getLsbD_catBytes]; simp [hi]

@[simp] theorem hi8_catBytes (h l : Byte) : hi8 (catBytes h l) = h := by
  refine BitVec.eq_of_getLsbD_eq fun i hi => ?_
  rw [getLsbD_hi8, getLsbD_catBytes]; simp [hi]

@[simp] theorem catBytes_hi8_lo8 (v : Word) : catBytes (hi8 v) (lo8 v) = v := by
  refine BitVec.eq_of_getLsbD_eq fun i hi => ?_
  rw [getLsbD_catBytes, getLsbD_lo8, getLsbD_hi8]
  split
  · next h => simp [h]
  · next h => rw [show 8 + (i - 8) = i by omega]; simp; omega

@[simp] theorem lo8_zext16 (b : Byte) : lo8 (zext16 b) = b := by
  refine BitVec.eq_of_getLsbD_eq fun i hi => ?_
  rw [getLsbD_lo8, getLsbD_zext16]; simp [hi]; omega

@[simp] theorem hi8_zext16 (b : Byte) : hi8 (zext16 b) = 0#8 := by
  refine BitVec.eq_of_getLsbD_eq fun i hi => ?_
  rw [getLsbD_hi8, getLsbD_zext16]; simp

@[simp] theorem lo8_setLo8 (v : Word) (l : Byte) : lo8 (setLo8 v l) = l := by simp [setLo8]
@[simp] theorem hi8_setLo8 (v : Word) (l : Byte) : hi8 (setLo8 v l) = hi8 v := by simp [setLo8]
@[simp] theorem lo8_setHi8 (v : Word) (h : Byte) : lo8 (setHi8 v h) = lo8 v := by simp [setHi8]
@[simp] theorem hi8_setHi8 (v : Word) (h : Byte) : hi8 (setHi8 v h) = h := by simp [setHi8]

/-- An operand latched low byte then high byte (R65). -/
@[simp] theorem setHi8_setLo8 (v : Word) (h l : Byte) : setHi8 (setLo8 v l) h = catBytes h l := by
  simp [setHi8]

end Sys2Proof.Machine
end

