-- ==== Sys2Proof/Laws/Memory.lean ====
section
/-! SUPPORT. The laws of a memory image: what a read sees after a write, and that every operation keeps the
canonical form. -/
namespace Sys2Proof.Machine

/-- Below the first listed offset every byte reads as 0x00. -/
theorem readCell_eq_zero_of_lt {m : Memory} {lo off : Nat} (h : Memory.wfFrom lo m = true)
    (hlt : off < lo) : readCell m off = 0#8 := by
  induction m generalizing lo with
  | nil => rfl
  | cons cell rest ih =>
    obtain ⟨k, v⟩ := cell
    simp only [Memory.wfFrom, Bool.and_eq_true, decide_eq_true_eq] at h
    have hk : k ≠ off := by omega
    simp only [readCell, hk, if_false]
    exact ih h.2 (by omega)

/-- The form from an offset implies the form from any lower one. -/
theorem wfFrom_mono {m : Memory} {lo lo' : Nat} (h : Memory.wfFrom lo m = true) (hle : lo' ≤ lo) :
    Memory.wfFrom lo' m = true := by
  cases m with
  | nil => rfl
  | cons cell rest =>
    simp only [Memory.wfFrom, Bool.and_eq_true, decide_eq_true_eq] at h ⊢
    exact ⟨⟨⟨by omega, h.1.1.2⟩, h.1.2⟩, h.2⟩

theorem readCell_writeCell_same_from {m : Memory} {lo off : Nat} (v : Byte)
    (h : Memory.wfFrom lo m = true) : readCell (writeCell m off v) off = v := by
  induction m generalizing lo with
  | nil => by_cases hv : v = 0#8 <;> simp [writeCell, readCell, hv]
  | cons cell rest ih =>
    obtain ⟨k, w⟩ := cell
    simp only [Memory.wfFrom, Bool.and_eq_true, decide_eq_true_eq] at h
    simp only [writeCell]
    split
    · split
      · next hv =>
        have hk : k ≠ off := by omega
        simp only [readCell, hk, if_false, hv]
        exact readCell_eq_zero_of_lt h.2 (by omega)
      · simp [readCell]
    · split
      · split
        · next hv => rw [hv]; exact readCell_eq_zero_of_lt h.2 (by omega)
        · simp [readCell]
      · next hk => simp only [readCell, Ne.symm hk, if_false]; exact ih h.2

/-- A read after a write to the same offset gives the byte written (R56). -/
theorem readCell_writeCell_same {m : Memory} (off : Nat) (v : Byte) (h : m.wf = true) :
    readCell (writeCell m off v) off = v :=
  readCell_writeCell_same_from v h

/-- A write leaves every other offset alone (R53). -/
theorem readCell_writeCell_other (m : Memory) {off off' : Nat} (v : Byte) (h : off' ≠ off) :
    readCell (writeCell m off v) off' = readCell m off' := by
  induction m with
  | nil => by_cases hv : v = 0#8 <;> simp [writeCell, readCell, hv, Ne.symm h]
  | cons cell rest ih =>
    obtain ⟨k, w⟩ := cell
    simp only [writeCell]
    split
    · split <;> simp [readCell, Ne.symm h]
    · split
      · next hk => split <;> simp [readCell, ← hk, Ne.symm h]
      · simp only [readCell, ih]

theorem writeCell_wfFrom {m : Memory} {lo off : Nat} (v : Byte) (h : Memory.wfFrom lo m = true)
    (hlo : lo ≤ off) (hoff : off < imageSize) : Memory.wfFrom lo (writeCell m off v) = true := by
  induction m generalizing lo with
  | nil => by_cases hv : v = 0#8 <;> simp [writeCell, Memory.wfFrom, hv, hlo, hoff]
  | cons cell rest ih =>
    obtain ⟨k, w⟩ := cell
    have hc := h
    simp only [Memory.wfFrom, Bool.and_eq_true, decide_eq_true_eq] at h
    simp only [writeCell]
    split
    · split
      · exact hc
      · next hlt hv =>
        have : off + 1 ≤ k := hlt
        simp [Memory.wfFrom, hlo, hoff, hv, this, h.1.1.2, h.1.2, h.2]
    · split
      · next hk =>
        split
        · exact wfFrom_mono h.2 (by omega)
        · next hv => simp [Memory.wfFrom, hv, hk, h.1.1, h.2]
      · next hlt hk =>
        simp only [Memory.wfFrom, Bool.and_eq_true, decide_eq_true_eq]
        exact ⟨h.1, ih h.2 (by omega)⟩

/-- A write inside the image keeps the canonical form. -/
theorem writeCell_wf {m : Memory} {off : Nat} (v : Byte) (h : m.wf = true) (hoff : off < imageSize) :
    (writeCell m off v).wf = true :=
  writeCell_wfFrom v h (Nat.zero_le _) hoff

/-- The cells of a write are the old cells and the one written. -/
theorem mem_writeCell {m : Memory} {off : Nat} {v : Byte} {cell : Host.Cell}
    (h : cell ∈ writeCell m off v) : cell ∈ m ∨ cell.1 = off := by
  induction m with
  | nil =>
    simp only [writeCell] at h
    split at h
    · exact .inl h
    · simp only [List.mem_singleton] at h; exact .inr (by rw [h])
  | cons c rest ih =>
    obtain ⟨k, w⟩ := c
    simp only [writeCell] at h
    split at h
    · split at h
      · exact .inl h
      · rcases List.mem_cons.mp h with h | h
        · exact .inr (by rw [h])
        · exact .inl h
    · split at h
      · split at h
        · exact .inl (List.mem_cons_of_mem _ h)
        · rcases List.mem_cons.mp h with h | h
          · exact .inr (by rw [h])
          · exact .inl (List.mem_cons_of_mem _ h)
      · rcases List.mem_cons.mp h with h | h
        · exact .inl (by rw [h]; exact List.mem_cons_self)
        · rcases ih h with h | h
          · exact .inl (List.mem_cons_of_mem _ h)
          · exact .inr h

theorem cellsFrom_wfFrom {bytes : List Byte} {off : Nat} (h : off + bytes.length ≤ imageSize) :
    Memory.wfFrom off (Memory.cellsFrom off bytes) = true := by
  induction bytes generalizing off with
  | nil => rfl
  | cons v rest ih =>
    simp only [List.length_cons] at h
    have hrest := ih (off := off + 1) (by omega)
    have hoff : off < imageSize := by omega
    simp only [Memory.cellsFrom]
    split
    · exact wfFrom_mono hrest (by omega)
    · next hv => simp [Memory.wfFrom, hv, hrest, hoff]

/-- The image of at most 65,535 bytes has the canonical form. -/
theorem ofBytes_wf {bytes : List Byte} (h : bytes.length ≤ imageSize) :
    (Memory.ofBytes bytes).wf = true :=
  cellsFrom_wfFrom (by omega)

end Sys2Proof.Machine
end

