-- ==== Sys2Proof/Laws/State.lean ====
section
/-! SUPPORT. What each state update leaves in each field, one lemma per field and update, by rfl, so that no
proof unfolds a record update. -/
namespace Sys2Proof.Machine

@[simp] theorem finish_pc (s : State) : (finish s).pc = s.pc := rfl
@[simp] theorem finish_mar (s : State) : (finish s).mar = s.mar := rfl
@[simp] theorem finish_ir (s : State) : (finish s).ir = s.ir := rfl
@[simp] theorem finish_a (s : State) : (finish s).a = s.a := rfl
@[simp] theorem finish_b (s : State) : (finish s).b = s.b := rfl
@[simp] theorem finish_t (s : State) : (finish s).t = s.t := rfl
@[simp] theorem finish_sp (s : State) : (finish s).sp = s.sp := rfl
@[simp] theorem finish_c (s : State) : (finish s).c = s.c := rfl
@[simp] theorem finish_z (s : State) : (finish s).z = s.z := rfl
@[simp] theorem finish_stepCount (s : State) : (finish s).stepCount = 0#4 := rfl
@[simp] theorem finish_opc (s : State) : (finish s).opc = s.opc := rfl
@[simp] theorem finish_halted (s : State) : (finish s).halted = s.halted := rfl
@[simp] theorem finish_fault (s : State) : (finish s).fault = s.fault := rfl
@[simp] theorem finish_rom (s : State) : (finish s).rom = s.rom := rfl
@[simp] theorem finish_ram (s : State) : (finish s).ram = s.ram := rfl

@[simp] theorem takeFault_pc (f : FaultRecord) (s : State) : (takeFault f s).pc = s.pc := rfl
@[simp] theorem takeFault_mar (f : FaultRecord) (s : State) : (takeFault f s).mar = s.mar := rfl
@[simp] theorem takeFault_ir (f : FaultRecord) (s : State) : (takeFault f s).ir = s.ir := rfl
@[simp] theorem takeFault_a (f : FaultRecord) (s : State) : (takeFault f s).a = s.a := rfl
@[simp] theorem takeFault_b (f : FaultRecord) (s : State) : (takeFault f s).b = s.b := rfl
@[simp] theorem takeFault_t (f : FaultRecord) (s : State) : (takeFault f s).t = s.t := rfl
@[simp] theorem takeFault_sp (f : FaultRecord) (s : State) : (takeFault f s).sp = s.sp := rfl
@[simp] theorem takeFault_c (f : FaultRecord) (s : State) : (takeFault f s).c = s.c := rfl
@[simp] theorem takeFault_z (f : FaultRecord) (s : State) : (takeFault f s).z = s.z := rfl
@[simp] theorem takeFault_stepCount (f : FaultRecord) (s : State) : (takeFault f s).stepCount = s.stepCount := rfl
@[simp] theorem takeFault_opc (f : FaultRecord) (s : State) : (takeFault f s).opc = s.opc := rfl
@[simp] theorem takeFault_halted (f : FaultRecord) (s : State) : (takeFault f s).halted = true := rfl
@[simp] theorem takeFault_fault (f : FaultRecord) (s : State) : (takeFault f s).fault = some f := rfl
@[simp] theorem takeFault_rom (f : FaultRecord) (s : State) : (takeFault f s).rom = s.rom := rfl
@[simp] theorem takeFault_ram (f : FaultRecord) (s : State) : (takeFault f s).ram = s.ram := rfl

@[simp] theorem State.withFlags_pc (s : State) (o : AluOut) : (s.withFlags o).pc = s.pc := rfl
@[simp] theorem State.withFlags_mar (s : State) (o : AluOut) : (s.withFlags o).mar = s.mar := rfl
@[simp] theorem State.withFlags_ir (s : State) (o : AluOut) : (s.withFlags o).ir = s.ir := rfl
@[simp] theorem State.withFlags_a (s : State) (o : AluOut) : (s.withFlags o).a = s.a := rfl
@[simp] theorem State.withFlags_b (s : State) (o : AluOut) : (s.withFlags o).b = s.b := rfl
@[simp] theorem State.withFlags_t (s : State) (o : AluOut) : (s.withFlags o).t = s.t := rfl
@[simp] theorem State.withFlags_sp (s : State) (o : AluOut) : (s.withFlags o).sp = s.sp := rfl
@[simp] theorem State.withFlags_c (s : State) (o : AluOut) : (s.withFlags o).c = o.carryOut := rfl
@[simp] theorem State.withFlags_z (s : State) (o : AluOut) : (s.withFlags o).z = decide (o.result = 0#16) := rfl
@[simp] theorem State.withFlags_stepCount (s : State) (o : AluOut) : (s.withFlags o).stepCount = s.stepCount := rfl
@[simp] theorem State.withFlags_opc (s : State) (o : AluOut) : (s.withFlags o).opc = s.opc := rfl
@[simp] theorem State.withFlags_halted (s : State) (o : AluOut) : (s.withFlags o).halted = s.halted := rfl
@[simp] theorem State.withFlags_fault (s : State) (o : AluOut) : (s.withFlags o).fault = s.fault := rfl
@[simp] theorem State.withFlags_rom (s : State) (o : AluOut) : (s.withFlags o).rom = s.rom := rfl
@[simp] theorem State.withFlags_ram (s : State) (o : AluOut) : (s.withFlags o).ram = s.ram := rfl

@[simp] theorem readImm8_pc (s : State) : (readImm8 s).pc = s.pc + 1#16 := rfl
@[simp] theorem readImm8_mar (s : State) : (readImm8 s).mar = s.pc := rfl
@[simp] theorem readImm8_ir (s : State) : (readImm8 s).ir = s.ir := rfl
@[simp] theorem readImm8_a (s : State) : (readImm8 s).a = s.a := rfl
@[simp] theorem readImm8_b (s : State) : (readImm8 s).b = s.b := rfl
@[simp] theorem readImm8_t (s : State) : (readImm8 s).t = s.t := rfl
@[simp] theorem readImm8_sp (s : State) : (readImm8 s).sp = s.sp := rfl
@[simp] theorem readImm8_c (s : State) : (readImm8 s).c = s.c := rfl
@[simp] theorem readImm8_z (s : State) : (readImm8 s).z = s.z := rfl
@[simp] theorem readImm8_stepCount (s : State) : (readImm8 s).stepCount = s.stepCount := rfl
@[simp] theorem readImm8_opc (s : State) : (readImm8 s).opc = s.opc := rfl
@[simp] theorem readImm8_halted (s : State) : (readImm8 s).halted = s.halted := rfl
@[simp] theorem readImm8_fault (s : State) : (readImm8 s).fault = s.fault := rfl
@[simp] theorem readImm8_rom (s : State) : (readImm8 s).rom = s.rom := rfl
@[simp] theorem readImm8_ram (s : State) : (readImm8 s).ram = s.ram := rfl

@[simp] theorem readAddr16_pc (x : Word) (s : State) : (readAddr16 x s).pc = s.pc + 2#16 := rfl
@[simp] theorem readAddr16_mar (x : Word) (s : State) : (readAddr16 x s).mar = s.pc + 1#16 := rfl
@[simp] theorem readAddr16_ir (x : Word) (s : State) : (readAddr16 x s).ir = s.ir := rfl
@[simp] theorem readAddr16_a (x : Word) (s : State) : (readAddr16 x s).a = s.a := rfl
@[simp] theorem readAddr16_b (x : Word) (s : State) : (readAddr16 x s).b = s.b := rfl
@[simp] theorem readAddr16_t (x : Word) (s : State) : (readAddr16 x s).t = x := rfl
@[simp] theorem readAddr16_sp (x : Word) (s : State) : (readAddr16 x s).sp = s.sp := rfl
@[simp] theorem readAddr16_c (x : Word) (s : State) : (readAddr16 x s).c = s.c := rfl
@[simp] theorem readAddr16_z (x : Word) (s : State) : (readAddr16 x s).z = s.z := rfl
@[simp] theorem readAddr16_stepCount (x : Word) (s : State) : (readAddr16 x s).stepCount = s.stepCount := rfl
@[simp] theorem readAddr16_opc (x : Word) (s : State) : (readAddr16 x s).opc = s.opc := rfl
@[simp] theorem readAddr16_halted (x : Word) (s : State) : (readAddr16 x s).halted = s.halted := rfl
@[simp] theorem readAddr16_fault (x : Word) (s : State) : (readAddr16 x s).fault = s.fault := rfl
@[simp] theorem readAddr16_rom (x : Word) (s : State) : (readAddr16 x s).rom = s.rom := rfl
@[simp] theorem readAddr16_ram (x : Word) (s : State) : (readAddr16 x s).ram = s.ram := rfl

@[simp] theorem absoluteMode_pc (x : Word) (s : State) : (absoluteMode x s).pc = s.pc + 2#16 := rfl
@[simp] theorem absoluteMode_mar (x : Word) (s : State) : (absoluteMode x s).mar = x := rfl
@[simp] theorem absoluteMode_ir (x : Word) (s : State) : (absoluteMode x s).ir = s.ir := rfl
@[simp] theorem absoluteMode_a (x : Word) (s : State) : (absoluteMode x s).a = s.a := rfl
@[simp] theorem absoluteMode_b (x : Word) (s : State) : (absoluteMode x s).b = s.b := rfl
@[simp] theorem absoluteMode_t (x : Word) (s : State) : (absoluteMode x s).t = x := rfl
@[simp] theorem absoluteMode_sp (x : Word) (s : State) : (absoluteMode x s).sp = s.sp := rfl
@[simp] theorem absoluteMode_c (x : Word) (s : State) : (absoluteMode x s).c = s.c := rfl
@[simp] theorem absoluteMode_z (x : Word) (s : State) : (absoluteMode x s).z = s.z := rfl
@[simp] theorem absoluteMode_stepCount (x : Word) (s : State) : (absoluteMode x s).stepCount = s.stepCount := rfl
@[simp] theorem absoluteMode_opc (x : Word) (s : State) : (absoluteMode x s).opc = s.opc := rfl
@[simp] theorem absoluteMode_halted (x : Word) (s : State) : (absoluteMode x s).halted = s.halted := rfl
@[simp] theorem absoluteMode_fault (x : Word) (s : State) : (absoluteMode x s).fault = s.fault := rfl
@[simp] theorem absoluteMode_rom (x : Word) (s : State) : (absoluteMode x s).rom = s.rom := rfl
@[simp] theorem absoluteMode_ram (x : Word) (s : State) : (absoluteMode x s).ram = s.ram := rfl

@[simp] theorem indirectMode_pc (s : State) : (indirectMode s).pc = s.pc := rfl
@[simp] theorem indirectMode_mar (s : State) : (indirectMode s).mar = s.b := rfl
@[simp] theorem indirectMode_ir (s : State) : (indirectMode s).ir = s.ir := rfl
@[simp] theorem indirectMode_a (s : State) : (indirectMode s).a = s.a := rfl
@[simp] theorem indirectMode_b (s : State) : (indirectMode s).b = s.b := rfl
@[simp] theorem indirectMode_t (s : State) : (indirectMode s).t = s.t := rfl
@[simp] theorem indirectMode_sp (s : State) : (indirectMode s).sp = s.sp := rfl
@[simp] theorem indirectMode_c (s : State) : (indirectMode s).c = s.c := rfl
@[simp] theorem indirectMode_z (s : State) : (indirectMode s).z = s.z := rfl
@[simp] theorem indirectMode_stepCount (s : State) : (indirectMode s).stepCount = s.stepCount := rfl
@[simp] theorem indirectMode_opc (s : State) : (indirectMode s).opc = s.opc := rfl
@[simp] theorem indirectMode_halted (s : State) : (indirectMode s).halted = s.halted := rfl
@[simp] theorem indirectMode_fault (s : State) : (indirectMode s).fault = s.fault := rfl
@[simp] theorem indirectMode_rom (s : State) : (indirectMode s).rom = s.rom := rfl
@[simp] theorem indirectMode_ram (s : State) : (indirectMode s).ram = s.ram := rfl

@[simp] theorem latchRegisters_pc (w : ControlWord) (v : Word) (s : State) : (latchRegisters w v s).pc = nextPc w v s := rfl
@[simp] theorem latchRegisters_mar (w : ControlWord) (v : Word) (s : State) : (latchRegisters w v s).mar = if .mar ∈ w.latch then v else s.mar := rfl
@[simp] theorem latchRegisters_ir (w : ControlWord) (v : Word) (s : State) : (latchRegisters w v s).ir = if .ir ∈ w.latch then v else s.ir := rfl
@[simp] theorem latchRegisters_a (w : ControlWord) (v : Word) (s : State) : (latchRegisters w v s).a = if .a ∈ w.latch then v else s.a := rfl
@[simp] theorem latchRegisters_b (w : ControlWord) (v : Word) (s : State) : (latchRegisters w v s).b = if .b ∈ w.latch then v else s.b := rfl
@[simp] theorem latchRegisters_t (w : ControlWord) (v : Word) (s : State) : (latchRegisters w v s).t = nextT w v s := rfl
@[simp] theorem latchRegisters_sp (w : ControlWord) (v : Word) (s : State) : (latchRegisters w v s).sp = nextSp w v s := rfl
@[simp] theorem latchRegisters_c (w : ControlWord) (v : Word) (s : State) : (latchRegisters w v s).c = s.c := rfl
@[simp] theorem latchRegisters_z (w : ControlWord) (v : Word) (s : State) : (latchRegisters w v s).z = s.z := rfl
@[simp] theorem latchRegisters_stepCount (w : ControlWord) (v : Word) (s : State) : (latchRegisters w v s).stepCount = s.stepCount := rfl
@[simp] theorem latchRegisters_opc (w : ControlWord) (v : Word) (s : State) : (latchRegisters w v s).opc = s.opc := rfl
@[simp] theorem latchRegisters_halted (w : ControlWord) (v : Word) (s : State) : (latchRegisters w v s).halted = s.halted := rfl
@[simp] theorem latchRegisters_fault (w : ControlWord) (v : Word) (s : State) : (latchRegisters w v s).fault = s.fault := rfl
@[simp] theorem latchRegisters_rom (w : ControlWord) (v : Word) (s : State) : (latchRegisters w v s).rom = s.rom := rfl
@[simp] theorem latchRegisters_ram (w : ControlWord) (v : Word) (s : State) : (latchRegisters w v s).ram = s.ram := rfl

@[simp] theorem fetchPulse_pc (cfg : Config) (s : State) : (fetchPulse cfg s).pc = s.pc + 1#16 := rfl
@[simp] theorem fetchPulse_mar (cfg : Config) (s : State) : (fetchPulse cfg s).mar = s.pc := rfl
@[simp] theorem fetchPulse_ir (cfg : Config) (s : State) : (fetchPulse cfg s).ir = zext16 (memRead cfg s s.pc) := rfl
@[simp] theorem fetchPulse_a (cfg : Config) (s : State) : (fetchPulse cfg s).a = s.a := rfl
@[simp] theorem fetchPulse_b (cfg : Config) (s : State) : (fetchPulse cfg s).b = s.b := rfl
@[simp] theorem fetchPulse_t (cfg : Config) (s : State) : (fetchPulse cfg s).t = s.t := rfl
@[simp] theorem fetchPulse_sp (cfg : Config) (s : State) : (fetchPulse cfg s).sp = s.sp := rfl
@[simp] theorem fetchPulse_c (cfg : Config) (s : State) : (fetchPulse cfg s).c = s.c := rfl
@[simp] theorem fetchPulse_z (cfg : Config) (s : State) : (fetchPulse cfg s).z = s.z := rfl
@[simp] theorem fetchPulse_stepCount (cfg : Config) (s : State) : (fetchPulse cfg s).stepCount = 1#4 := rfl
@[simp] theorem fetchPulse_opc (cfg : Config) (s : State) : (fetchPulse cfg s).opc = s.opc := rfl
@[simp] theorem fetchPulse_halted (cfg : Config) (s : State) : (fetchPulse cfg s).halted = s.halted := rfl
@[simp] theorem fetchPulse_fault (cfg : Config) (s : State) : (fetchPulse cfg s).fault = s.fault := rfl
@[simp] theorem fetchPulse_rom (cfg : Config) (s : State) : (fetchPulse cfg s).rom = s.rom := rfl
@[simp] theorem fetchPulse_ram (cfg : Config) (s : State) : (fetchPulse cfg s).ram = s.ram := rfl

/-- Reset keeps the ROM image and gives every other field its construction value (R168). -/
@[simp] theorem State.externalReset_eq (s : State) : s.externalReset = State.ofRom s.rom := rfl

@[simp] theorem State.ofRom_rom (m : Memory) : (State.ofRom m).rom = m := rfl
@[simp] theorem State.ofRom_ram (m : Memory) : (State.ofRom m).ram = [] := rfl
@[simp] theorem State.ofRom_halted (m : Memory) : (State.ofRom m).halted = false := rfl
@[simp] theorem State.ofRom_fault (m : Memory) : (State.ofRom m).fault = none := rfl
@[simp] theorem State.ofRom_stepCount (m : Memory) : (State.ofRom m).stepCount = 0#4 := rfl

@[simp] theorem placeByte_pc (cfg : Config) (s : State) (x : Word) (v : Byte) :
    (placeByte cfg s x v).pc = s.pc := by unfold placeByte; split <;> rfl
@[simp] theorem placeByte_mar (cfg : Config) (s : State) (x : Word) (v : Byte) :
    (placeByte cfg s x v).mar = s.mar := by unfold placeByte; split <;> rfl
@[simp] theorem placeByte_ir (cfg : Config) (s : State) (x : Word) (v : Byte) :
    (placeByte cfg s x v).ir = s.ir := by unfold placeByte; split <;> rfl
@[simp] theorem placeByte_a (cfg : Config) (s : State) (x : Word) (v : Byte) :
    (placeByte cfg s x v).a = s.a := by unfold placeByte; split <;> rfl
@[simp] theorem placeByte_b (cfg : Config) (s : State) (x : Word) (v : Byte) :
    (placeByte cfg s x v).b = s.b := by unfold placeByte; split <;> rfl
@[simp] theorem placeByte_t (cfg : Config) (s : State) (x : Word) (v : Byte) :
    (placeByte cfg s x v).t = s.t := by unfold placeByte; split <;> rfl
@[simp] theorem placeByte_sp (cfg : Config) (s : State) (x : Word) (v : Byte) :
    (placeByte cfg s x v).sp = s.sp := by unfold placeByte; split <;> rfl
@[simp] theorem placeByte_c (cfg : Config) (s : State) (x : Word) (v : Byte) :
    (placeByte cfg s x v).c = s.c := by unfold placeByte; split <;> rfl
@[simp] theorem placeByte_z (cfg : Config) (s : State) (x : Word) (v : Byte) :
    (placeByte cfg s x v).z = s.z := by unfold placeByte; split <;> rfl
@[simp] theorem placeByte_stepCount (cfg : Config) (s : State) (x : Word) (v : Byte) :
    (placeByte cfg s x v).stepCount = s.stepCount := by unfold placeByte; split <;> rfl
@[simp] theorem placeByte_opc (cfg : Config) (s : State) (x : Word) (v : Byte) :
    (placeByte cfg s x v).opc = s.opc := by unfold placeByte; split <;> rfl
@[simp] theorem placeByte_halted (cfg : Config) (s : State) (x : Word) (v : Byte) :
    (placeByte cfg s x v).halted = s.halted := by unfold placeByte; split <;> rfl
@[simp] theorem placeByte_fault (cfg : Config) (s : State) (x : Word) (v : Byte) :
    (placeByte cfg s x v).fault = s.fault := by unfold placeByte; split <;> rfl

end Sys2Proof.Machine
end

