-- ==== Sys2Proof/Laws/Ops.lean ====
section
/-! SUPPORT. One lemma per shared operation over memory and the sequencer, saying once all it can do. -/
namespace Sys2Proof.Machine

theorem decodeAddress_rom {cfg : Config} {addr : Word} (h : addr.toNat < cfg.split.toNat) :
    decodeAddress cfg addr = (.rom, addr.toNat) := by simp [decodeAddress, h]

theorem decodeAddress_ram {cfg : Config} {addr : Word} (h : cfg.split.toNat ≤ addr.toNat) :
    decodeAddress cfg addr = (.ram, addr.toNat - cfg.split.toNat) := by
  simp [decodeAddress, Nat.not_lt.mpr h]

/-- A write either selects RAM and replaces one byte of it, or selects ROM and is rejected (R41, R42). -/
theorem memWrite_cases (cfg : Config) (s : State) (addr : Word) (v : Byte) :
    (cfg.split.toNat ≤ addr.toNat ∧ memWrite cfg s addr v =
      some { s with ram := writeCell s.ram (addr.toNat - cfg.split.toNat) v }) ∨
    (addr.toNat < cfg.split.toNat ∧ memWrite cfg s addr v = none) := by
  by_cases h : addr.toNat < cfg.split.toNat
  · exact .inr ⟨h, by simp [memWrite, decodeAddress_rom h]⟩
  · have h' := Nat.le_of_not_lt h
    exact .inl ⟨h', by simp [memWrite, decodeAddress_ram h']⟩

/-- What a read depends on: the two images alone. -/
theorem memRead_congr {cfg : Config} {s s' : State} (hrom : s'.rom = s.rom) (hram : s'.ram = s.ram)
    (addr : Word) : memRead cfg s' addr = memRead cfg s addr := by
  simp only [memRead, hrom, hram]

/-- After a RAM write, a read gives the byte written there and every other byte as before (R53, R56). -/
theorem memRead_writeCell {cfg : Config} {s : State} {addr : Word} (v : Byte) (hwf : s.ram.wf = true)
    (haddr : cfg.split.toNat ≤ addr.toNat) (x : Word) :
    memRead cfg { s with ram := writeCell s.ram (addr.toNat - cfg.split.toNat) v } x =
      if x = addr then v else memRead cfg s x := by
  by_cases hx : x.toNat < cfg.split.toNat
  · have hne : x ≠ addr := by rintro rfl; omega
    simp [memRead, decodeAddress_rom hx, hne]
  · have hx' := Nat.le_of_not_lt hx
    simp only [memRead, decodeAddress_ram hx']
    by_cases heq : x = addr
    · subst heq; simp [readCell_writeCell_same _ _ hwf]
    · have hn : x.toNat ≠ addr.toNat := fun h => heq (BitVec.eq_of_toNat_eq h)
      rw [if_neg heq, readCell_writeCell_other _ _ (by omega)]

/-- The write port either stores one RAM byte and goes on, or halts with an IllegalWrite and stores nothing
(R41, R42, R100). -/
theorem storeAtMar_cases (cfg : Config) (k : BitVec 4) (v : Byte) (s : State) (go : State → State) :
    (cfg.split.toNat ≤ s.mar.toNat ∧ storeAtMar cfg k v s go =
      go { s with ram := writeCell s.ram (s.mar.toNat - cfg.split.toNat) v }) ∨
    (s.mar.toNat < cfg.split.toNat ∧ storeAtMar cfg k v s go =
      takeFault (.illegalWrite s.mar v) { s with stepCount := k }) := by
  rcases memWrite_cases cfg s s.mar v with ⟨h, e⟩ | ⟨h, e⟩
  · exact .inl ⟨h, by simp [storeAtMar, e]⟩
  · exact .inr ⟨h, by simp [storeAtMar, e]⟩

/-- Under the constraint of R39, every RAM offset is inside its image. -/
theorem ramOffset_lt {cfg : Config} (h : cfg.splitOk = true) (addr : Word) :
    addr.toNat - cfg.split.toNat < imageSize := by
  simp only [Config.splitOk, decide_eq_true_eq] at h
  have := addr.isLt
  simp only [imageSize]; omega

/-- Placing a byte keeps both images' form under the constraint of R39. -/
theorem placeByte_wf {cfg : Config} {s : State} (h : cfg.splitOk = true) (addr : Word) (v : Byte)
    (hrom : s.rom.wf = true) (hram : s.ram.wf = true) :
    (placeByte cfg s addr v).rom.wf = true ∧ (placeByte cfg s addr v).ram.wf = true := by
  by_cases ha : addr.toNat < cfg.split.toNat
  · have hs := cfg.split.isLt
    have : addr.toNat < imageSize := by simp only [imageSize]; omega
    simp [placeByte, decodeAddress_rom ha, hram, writeCell_wf v hrom this]
  · have ha' := Nat.le_of_not_lt ha
    simp [placeByte, decodeAddress_ram ha', hrom, writeCell_wf v hram (ramOffset_lt h addr)]

/-- After a placement, a read gives the byte placed there and every other byte as before. -/
theorem memRead_placeByte {cfg : Config} {s : State} {addr : Word} (v : Byte) (hrom : s.rom.wf = true)
    (hram : s.ram.wf = true) (x : Word) :
    memRead cfg (placeByte cfg s addr v) x = if x = addr then v else memRead cfg s x := by
  have hne : ∀ y : Word, y ≠ addr → y.toNat ≠ addr.toNat :=
    fun y hy h => hy (BitVec.eq_of_toNat_eq h)
  by_cases ha : addr.toNat < cfg.split.toNat <;> by_cases hx : x.toNat < cfg.split.toNat
  · simp only [memRead, placeByte, decodeAddress_rom ha, decodeAddress_rom hx]
    by_cases heq : x = addr
    · subst heq; simp [readCell_writeCell_same _ _ hrom]
    · rw [if_neg heq, readCell_writeCell_other _ _ (hne x heq)]
  · have hx' := Nat.le_of_not_lt hx
    have heq : x ≠ addr := by rintro rfl; omega
    simp [memRead, placeByte, decodeAddress_rom ha, decodeAddress_ram hx', heq]
  · have ha' := Nat.le_of_not_lt ha
    have heq : x ≠ addr := by rintro rfl; omega
    simp [memRead, placeByte, decodeAddress_ram ha', decodeAddress_rom hx, heq]
  · have ha' := Nat.le_of_not_lt ha
    have hx' := Nat.le_of_not_lt hx
    simp only [memRead, placeByte, decodeAddress_ram ha', decodeAddress_ram hx']
    by_cases heq : x = addr
    · subst heq; simp [readCell_writeCell_same _ _ hram]
    · have := hne x heq
      rw [if_neg heq, readCell_writeCell_other _ _ (by omega)]

end Sys2Proof.Machine
end

