-- ==== Sys2Proof/Laws/Engine.lean ====
section
/-! SUPPORT. The engine: what one pulse can do, said once (`pulse_cases`), the three forms of an execute pulse
(`executePulse_cases`), the fields that phases 4 and 5 leave, and the step's own cases. -/
namespace Sys2Proof.Machine

@[simp] theorem flagPhase_pc (w : ControlWord) (start s : State) :
    (flagPhase w start s).pc = s.pc := by unfold flagPhase; split <;> rfl
@[simp] theorem flagPhase_mar (w : ControlWord) (start s : State) :
    (flagPhase w start s).mar = s.mar := by unfold flagPhase; split <;> rfl
@[simp] theorem flagPhase_ir (w : ControlWord) (start s : State) :
    (flagPhase w start s).ir = s.ir := by unfold flagPhase; split <;> rfl
@[simp] theorem flagPhase_a (w : ControlWord) (start s : State) :
    (flagPhase w start s).a = s.a := by unfold flagPhase; split <;> rfl
@[simp] theorem flagPhase_b (w : ControlWord) (start s : State) :
    (flagPhase w start s).b = s.b := by unfold flagPhase; split <;> rfl
@[simp] theorem flagPhase_t (w : ControlWord) (start s : State) :
    (flagPhase w start s).t = s.t := by unfold flagPhase; split <;> rfl
@[simp] theorem flagPhase_sp (w : ControlWord) (start s : State) :
    (flagPhase w start s).sp = s.sp := by unfold flagPhase; split <;> rfl
@[simp] theorem flagPhase_stepCount (w : ControlWord) (start s : State) :
    (flagPhase w start s).stepCount = s.stepCount := by unfold flagPhase; split <;> rfl
@[simp] theorem flagPhase_opc (w : ControlWord) (start s : State) :
    (flagPhase w start s).opc = s.opc := by unfold flagPhase; split <;> rfl
@[simp] theorem flagPhase_halted (w : ControlWord) (start s : State) :
    (flagPhase w start s).halted = s.halted := by unfold flagPhase; split <;> rfl
@[simp] theorem flagPhase_fault (w : ControlWord) (start s : State) :
    (flagPhase w start s).fault = s.fault := by unfold flagPhase; split <;> rfl
@[simp] theorem flagPhase_rom (w : ControlWord) (start s : State) :
    (flagPhase w start s).rom = s.rom := by unfold flagPhase; split <;> rfl
@[simp] theorem flagPhase_ram (w : ControlWord) (start s : State) :
    (flagPhase w start s).ram = s.ram := by unfold flagPhase; split <;> rfl

/-- A pulse that is not ALU-tagged leaves both flags (R94). -/
theorem flagPhase_untagged {w : ControlWord} (start s : State) (h : w.aluOp = none) :
    flagPhase w start s = s := by simp [flagPhase, h]

/-- An ALU-tagged pulse writes both flags from the ALU (R94). -/
theorem flagPhase_tagged {w : ControlWord} {op : AluOp} (start s : State) (h : w.aluOp = some op) :
    flagPhase w start s = s.withFlags (start.aluOut op) := by simp [flagPhase, h]

@[simp] theorem advance_pc (w : ControlWord) (s : State) : (advance w s).pc = s.pc := by
  unfold advance; split; rfl; split <;> rfl
@[simp] theorem advance_mar (w : ControlWord) (s : State) : (advance w s).mar = s.mar := by
  unfold advance; split; rfl; split <;> rfl
@[simp] theorem advance_ir (w : ControlWord) (s : State) : (advance w s).ir = s.ir := by
  unfold advance; split; rfl; split <;> rfl
@[simp] theorem advance_a (w : ControlWord) (s : State) : (advance w s).a = s.a := by
  unfold advance; split; rfl; split <;> rfl
@[simp] theorem advance_b (w : ControlWord) (s : State) : (advance w s).b = s.b := by
  unfold advance; split; rfl; split <;> rfl
@[simp] theorem advance_t (w : ControlWord) (s : State) : (advance w s).t = s.t := by
  unfold advance; split; rfl; split <;> rfl
@[simp] theorem advance_sp (w : ControlWord) (s : State) : (advance w s).sp = s.sp := by
  unfold advance; split; rfl; split <;> rfl
@[simp] theorem advance_c (w : ControlWord) (s : State) : (advance w s).c = s.c := by
  unfold advance; split; rfl; split <;> rfl
@[simp] theorem advance_z (w : ControlWord) (s : State) : (advance w s).z = s.z := by
  unfold advance; split; rfl; split <;> rfl
@[simp] theorem advance_opc (w : ControlWord) (s : State) : (advance w s).opc = s.opc := by
  unfold advance; split; rfl; split <;> rfl
@[simp] theorem advance_fault (w : ControlWord) (s : State) : (advance w s).fault = s.fault := by
  unfold advance; split; rfl; split <;> rfl
@[simp] theorem advance_rom (w : ControlWord) (s : State) : (advance w s).rom = s.rom := by
  unfold advance; split; rfl; split <;> rfl
@[simp] theorem advance_ram (w : ControlWord) (s : State) : (advance w s).ram = s.ram := by
  unfold advance; split; rfl; split <;> rfl

/-- HALTED after phase 5 (R98). -/
theorem advance_halted (w : ControlWord) (s : State) :
    (advance w s).halted = (w.halt || s.halted) := by
  unfold advance; split
  · next h => simp [h]
  · next h => split <;> simp [h, finish]

/-- STEP after phase 5 (R98). -/
theorem advance_stepCount (w : ControlWord) (s : State) :
    (advance w s).stepCount =
      if w.halt then s.stepCount else if w.isLast then 0#4 else s.stepCount + 1#4 := by
  unfold advance; split
  · rfl
  · split <;> rfl

/-- An execute pulse before its memory write and its sequencer phase: registers latched, flags updated. -/
def latchedState (cfg : Config) (w : ControlWord) (s : State) : State :=
  flagPhase w s (latchRegisters w (busValue cfg w s) s)

/-- The three forms of an execute pulse: no memory write, a RAM write, a rejected ROM write (R90, R100). -/
theorem executePulse_cases (cfg : Config) (w : ControlWord) (s : State) :
    (.mem ∉ w.latch ∧ executePulse cfg w s = advance w (latchedState cfg w s)) ∨
    (.mem ∈ w.latch ∧ cfg.split.toNat ≤ s.mar.toNat ∧ executePulse cfg w s =
      advance w { latchedState cfg w s with
        ram := writeCell s.ram (s.mar.toNat - cfg.split.toNat) (lo8 (busValue cfg w s)) }) ∨
    (.mem ∈ w.latch ∧ s.mar.toNat < cfg.split.toNat ∧ executePulse cfg w s =
      takeFault (.illegalWrite s.mar (lo8 (busValue cfg w s))) (latchedState cfg w s)) := by
  by_cases hm : .mem ∈ w.latch
  · rcases memWrite_cases cfg (latchedState cfg w s) s.mar (lo8 (busValue cfg w s)) with ⟨h, e⟩ | ⟨h, e⟩
    · refine .inr (.inl ⟨hm, h, ?_⟩)
      simp only [latchedState] at e
      simp [executePulse, hm, latchedState, e]
    · refine .inr (.inr ⟨hm, h, ?_⟩)
      simp only [latchedState] at e
      simp [executePulse, hm, latchedState, e]
  · exact .inl ⟨hm, by simp [executePulse, hm, latchedState]⟩

/-- Under a well-formed configuration a pulse is the pulse of R103. -/
theorem pulse_checked {cfg : Config} (hc : cfg.wellFormed = true) (s : State) :
    pulse cfg s = checkedPulse cfg s := by simp [pulse, hc]

/-- An ill-formed configuration has no pulse (R82). -/
theorem pulse_illFormed {cfg : Config} (hc : cfg.wellFormed = false) (s : State) :
    pulse cfg s = .refused .illFormedConfig := by simp [pulse, hc]

theorem pulse_halted {cfg : Config} {s : State} (hc : cfg.wellFormed = true) (h : s.halted = true) :
    pulse cfg s = .next s := by simp [pulse_checked hc, checkedPulse, h]

theorem pulse_fetch {cfg : Config} {s : State} (hc : cfg.wellFormed = true) (h : s.halted = false)
    (h0 : s.stepCount = 0#4) : pulse cfg s = .next (fetchPulse cfg s) := by
  simp [pulse_checked hc, checkedPulse, h, h0]

theorem pulse_decode {cfg : Config} {s : State} (hc : cfg.wellFormed = true) (h : s.halted = false)
    (h1 : s.stepCount = 1#4) : pulse cfg s = .next (decodePulse cfg s) := by
  simp [pulse_checked hc, checkedPulse, h, h1]

theorem pulse_execute {cfg : Config} {s : State} {w : ControlWord} (hc : cfg.wellFormed = true)
    (h : s.halted = false) (h2 : 2 ≤ s.stepCount.toNat)
    (hw : ControlTable.row? cfg.table s.opc s.stepCount.toNat = some w) :
    pulse cfg s = .next (executePulse cfg w s) := by
  have h0 : s.stepCount ≠ 0#4 := by intro e; simp [e] at h2
  have h1 : s.stepCount ≠ 1#4 := by intro e; simp [e] at h2
  simp [pulse_checked hc, checkedPulse, h, h0, h1, hw]

/-- All a pulse that answers a next state can have done (R83 to R87); its configuration is well-formed (R82). -/
theorem pulse_cases {cfg : Config} {s s' : State} (h : pulse cfg s = .next s') :
    cfg.wellFormed = true ∧
    ((s.halted = true ∧ s' = s) ∨
    (s.halted = false ∧ s.stepCount = 0#4 ∧ s' = fetchPulse cfg s) ∨
    (s.halted = false ∧ s.stepCount = 1#4 ∧ s' = decodePulse cfg s) ∨
    (s.halted = false ∧ 2 ≤ s.stepCount.toNat ∧ ∃ w,
      ControlTable.row? cfg.table s.opc s.stepCount.toNat = some w ∧ s' = executePulse cfg w s)) := by
  cases hc : cfg.wellFormed with
  | false => rw [pulse_illFormed hc] at h; cases h
  | true =>
  refine ⟨rfl, ?_⟩
  by_cases hh : s.halted = true
  · rw [pulse_halted hc hh] at h; exact .inl ⟨hh, by simpa using h.symm⟩
  · have hf : s.halted = false := by simpa using hh
    by_cases h0 : s.stepCount = 0#4
    · rw [pulse_fetch hc hf h0] at h; exact .inr (.inl ⟨hf, h0, by simpa using h.symm⟩)
    · by_cases h1 : s.stepCount = 1#4
      · rw [pulse_decode hc hf h1] at h; exact .inr (.inr (.inl ⟨hf, h1, by simpa using h.symm⟩))
      · refine .inr (.inr (.inr ⟨hf, by bv_omega, ?_⟩))
        rw [pulse_checked hc] at h
        simp only [checkedPulse, hf, h0, h1] at h
        cases hw : ControlTable.row? cfg.table s.opc s.stepCount.toNat with
        | none => simp [hw] at h
        | some w => exact ⟨w, rfl, by simpa [hw] using h.symm⟩

/-- The row of a well-formed configuration's pulse is itself well-formed (R82 items 4 to 7). -/
theorem row?_wellFormed {cfg : Config} {opc : Byte} {step : Nat} {w : ControlWord}
    (hc : cfg.wellFormed = true) (hw : ControlTable.row? cfg.table opc step = some w) :
    w.wellFormed = true := by
  simp only [Config.wellFormed, ControlTable.wellFormed, Bool.and_eq_true, List.all_eq_true] at hc
  simp only [ControlTable.row?, Option.map_eq_some_iff] at hw
  obtain ⟨r, hr, rfl⟩ := hw
  exact hc.2.2 r (List.mem_of_find?_eq_some hr)

/-- One pulse, then the rest. -/
theorem runPulses_succ {cfg : Config} {s s' : State} (n : Nat) (h : pulse cfg s = .next s') :
    runPulses cfg (n + 1) s = runPulses cfg n s' := by simp [runPulses, h]

theorem step_halted {s : State} (h : s.halted = true) : step s = .next s := by simp [step, h]

theorem step_decoded {s : State} {i : Instr} {rest : List Byte} (h : s.halted = false)
    (h0 : s.stepCount = 0#4) (hd : decode (bytesAtPc Ref.config s) = .ok (i, rest)) :
    step s = exec i (afterDecode Ref.config s) := by simp [step, h, h0, hd]

theorem step_unknown {s : State} {e : DecodeError} (h : s.halted = false) (h0 : s.stepCount = 0#4)
    (hd : decode (bytesAtPc Ref.config s) = .error e) :
    step s = .next (afterDecode Ref.config s) := by simp [step, h, h0, hd]

theorem step_within {s : State} (h : s.halted = false) (h0 : s.stepCount ≠ 0#4) :
    step s = finishInstruction Ref.config s := by simp [step, h, h0]

end Sys2Proof.Machine
end

