-- ==== Sys2Proof/Laws/Table.lean ====
section
/-! SUPPORT. SIS16-REF looked up: the rows of each instruction by its opcode, and agreement of the table's
defined opcodes with the decoder's. -/
namespace Sys2Proof.Machine

/-- The default configuration passes the checks (R82). -/
theorem Ref.config_wellFormed : Ref.config.wellFormed = true := by decide +kernel

/-- The execute rows of an instruction, from step 2. -/
def Ref.wordsOf : Instr → List ControlWord
  | .nop => Ref.nop | .ldiA _ => Ref.ldiA | .ldiB _ => Ref.ldiB | .lda _ => Ref.lda | .ldb _ => Ref.ldb
  | .sta _ => Ref.sta | .stb _ => Ref.stb | .ldx => Ref.ldx | .stx => Ref.stx
  | .movAB => Ref.movAB | .movBA => Ref.movBA | .movASp => Ref.movASp | .movSpA => Ref.movSpA
  | .add => Ref.add | .adc => Ref.adc | .sub => Ref.sub | .sbc => Ref.sbc | .and => Ref.and
  | .or => Ref.or | .xor => Ref.xor | .not => Ref.not | .shl => Ref.shl | .shr => Ref.shr
  | .inc => Ref.inc | .dec => Ref.dec | .cmp => Ref.cmp
  | .jmp _ => Ref.jmp | .jc _ => Ref.jc | .jnc _ => Ref.jnc | .jz _ => Ref.jz | .jnz _ => Ref.jnz
  | .call _ => Ref.call | .ret => Ref.ret | .pushA => Ref.pushA | .popA => Ref.popA | .hlt => Ref.hlt

/-- The lookup of an instruction's step `n + 2` is its `n`-th row, for every step the counter has (R87). -/
theorem Ref.row?_opcodeOf (i : Instr) (n : Nat) (h : n < 14) :
    ControlTable.row? Ref.config.table (opcodeOf i) (n + 2) = (Ref.wordsOf i)[n]? := by
  have all : ∀ n : Fin 14, ControlTable.row? Ref.config.table (opcodeOf i) (n.val + 2) =
      (Ref.wordsOf i)[n.val]? := by
    cases i <;> (simp only [opcodeOf, Ref.wordsOf]; decide +kernel)
  exact all ⟨n, h⟩

/-- A byte is an opcode of SIS16-REF exactly when it is some instruction's (R67, R68). -/
theorem Ref.defined_opcodeOf (i : Instr) : ControlTable.defined Ref.config.table (opcodeOf i) = true := by
  cases i <;> (simp only [opcodeOf]; decide +kernel)

end Sys2Proof.Machine
end

