-- ==== Sys2Proof/Laws/PerInstr.lean ====
section
/-! SUPPORT. One statement for every instruction as syntax: the shape of its encoding. -/
namespace Sys2Proof.Laws.EncodedForm

/-- The encoded form of an instruction (R63, R66, R67, R69): it is well-formed whatever its operand, its bytes
are its opcode and its operand bytes, one to three of them as its length says, and SIS16-REF defines its
opcode. -/
def Statement (i : Instr) : Prop :=
  i.wellFormed = true ∧ (encode i).head? = some (opcodeOf i) ∧ (encode i).length = lengthOf i ∧
    1 ≤ lengthOf i ∧ lengthOf i ≤ 3 ∧
    ControlTable.defined Machine.Ref.table (opcodeOf i) = true

theorem nop : Statement .nop :=
  ⟨rfl, rfl, rfl, Nat.le_of_ble_eq_true rfl, Nat.le_of_ble_eq_true rfl, Machine.Ref.defined_opcodeOf _⟩
theorem ldiA (imm : Byte) : Statement (.ldiA imm) :=
  ⟨rfl, rfl, rfl, Nat.le_of_ble_eq_true rfl, Nat.le_of_ble_eq_true rfl, Machine.Ref.defined_opcodeOf _⟩
theorem ldiB (imm : Byte) : Statement (.ldiB imm) :=
  ⟨rfl, rfl, rfl, Nat.le_of_ble_eq_true rfl, Nat.le_of_ble_eq_true rfl, Machine.Ref.defined_opcodeOf _⟩
theorem lda (addr : Word) : Statement (.lda addr) :=
  ⟨rfl, rfl, rfl, Nat.le_of_ble_eq_true rfl, Nat.le_of_ble_eq_true rfl, Machine.Ref.defined_opcodeOf _⟩
theorem ldb (addr : Word) : Statement (.ldb addr) :=
  ⟨rfl, rfl, rfl, Nat.le_of_ble_eq_true rfl, Nat.le_of_ble_eq_true rfl, Machine.Ref.defined_opcodeOf _⟩
theorem sta (addr : Word) : Statement (.sta addr) :=
  ⟨rfl, rfl, rfl, Nat.le_of_ble_eq_true rfl, Nat.le_of_ble_eq_true rfl, Machine.Ref.defined_opcodeOf _⟩
theorem stb (addr : Word) : Statement (.stb addr) :=
  ⟨rfl, rfl, rfl, Nat.le_of_ble_eq_true rfl, Nat.le_of_ble_eq_true rfl, Machine.Ref.defined_opcodeOf _⟩
theorem ldx : Statement .ldx :=
  ⟨rfl, rfl, rfl, Nat.le_of_ble_eq_true rfl, Nat.le_of_ble_eq_true rfl, Machine.Ref.defined_opcodeOf _⟩
theorem stx : Statement .stx :=
  ⟨rfl, rfl, rfl, Nat.le_of_ble_eq_true rfl, Nat.le_of_ble_eq_true rfl, Machine.Ref.defined_opcodeOf _⟩
theorem movAB : Statement .movAB :=
  ⟨rfl, rfl, rfl, Nat.le_of_ble_eq_true rfl, Nat.le_of_ble_eq_true rfl, Machine.Ref.defined_opcodeOf _⟩
theorem movBA : Statement .movBA :=
  ⟨rfl, rfl, rfl, Nat.le_of_ble_eq_true rfl, Nat.le_of_ble_eq_true rfl, Machine.Ref.defined_opcodeOf _⟩
theorem movASp : Statement .movASp :=
  ⟨rfl, rfl, rfl, Nat.le_of_ble_eq_true rfl, Nat.le_of_ble_eq_true rfl, Machine.Ref.defined_opcodeOf _⟩
theorem movSpA : Statement .movSpA :=
  ⟨rfl, rfl, rfl, Nat.le_of_ble_eq_true rfl, Nat.le_of_ble_eq_true rfl, Machine.Ref.defined_opcodeOf _⟩
theorem add : Statement .add :=
  ⟨rfl, rfl, rfl, Nat.le_of_ble_eq_true rfl, Nat.le_of_ble_eq_true rfl, Machine.Ref.defined_opcodeOf _⟩
theorem adc : Statement .adc :=
  ⟨rfl, rfl, rfl, Nat.le_of_ble_eq_true rfl, Nat.le_of_ble_eq_true rfl, Machine.Ref.defined_opcodeOf _⟩
theorem sub : Statement .sub :=
  ⟨rfl, rfl, rfl, Nat.le_of_ble_eq_true rfl, Nat.le_of_ble_eq_true rfl, Machine.Ref.defined_opcodeOf _⟩
theorem sbc : Statement .sbc :=
  ⟨rfl, rfl, rfl, Nat.le_of_ble_eq_true rfl, Nat.le_of_ble_eq_true rfl, Machine.Ref.defined_opcodeOf _⟩
theorem and : Statement .and :=
  ⟨rfl, rfl, rfl, Nat.le_of_ble_eq_true rfl, Nat.le_of_ble_eq_true rfl, Machine.Ref.defined_opcodeOf _⟩
theorem or : Statement .or :=
  ⟨rfl, rfl, rfl, Nat.le_of_ble_eq_true rfl, Nat.le_of_ble_eq_true rfl, Machine.Ref.defined_opcodeOf _⟩
theorem xor : Statement .xor :=
  ⟨rfl, rfl, rfl, Nat.le_of_ble_eq_true rfl, Nat.le_of_ble_eq_true rfl, Machine.Ref.defined_opcodeOf _⟩
theorem not : Statement .not :=
  ⟨rfl, rfl, rfl, Nat.le_of_ble_eq_true rfl, Nat.le_of_ble_eq_true rfl, Machine.Ref.defined_opcodeOf _⟩
theorem shl : Statement .shl :=
  ⟨rfl, rfl, rfl, Nat.le_of_ble_eq_true rfl, Nat.le_of_ble_eq_true rfl, Machine.Ref.defined_opcodeOf _⟩
theorem shr : Statement .shr :=
  ⟨rfl, rfl, rfl, Nat.le_of_ble_eq_true rfl, Nat.le_of_ble_eq_true rfl, Machine.Ref.defined_opcodeOf _⟩
theorem inc : Statement .inc :=
  ⟨rfl, rfl, rfl, Nat.le_of_ble_eq_true rfl, Nat.le_of_ble_eq_true rfl, Machine.Ref.defined_opcodeOf _⟩
theorem dec : Statement .dec :=
  ⟨rfl, rfl, rfl, Nat.le_of_ble_eq_true rfl, Nat.le_of_ble_eq_true rfl, Machine.Ref.defined_opcodeOf _⟩
theorem cmp : Statement .cmp :=
  ⟨rfl, rfl, rfl, Nat.le_of_ble_eq_true rfl, Nat.le_of_ble_eq_true rfl, Machine.Ref.defined_opcodeOf _⟩
theorem jmp (addr : Word) : Statement (.jmp addr) :=
  ⟨rfl, rfl, rfl, Nat.le_of_ble_eq_true rfl, Nat.le_of_ble_eq_true rfl, Machine.Ref.defined_opcodeOf _⟩
theorem jc (addr : Word) : Statement (.jc addr) :=
  ⟨rfl, rfl, rfl, Nat.le_of_ble_eq_true rfl, Nat.le_of_ble_eq_true rfl, Machine.Ref.defined_opcodeOf _⟩
theorem jnc (addr : Word) : Statement (.jnc addr) :=
  ⟨rfl, rfl, rfl, Nat.le_of_ble_eq_true rfl, Nat.le_of_ble_eq_true rfl, Machine.Ref.defined_opcodeOf _⟩
theorem jz (addr : Word) : Statement (.jz addr) :=
  ⟨rfl, rfl, rfl, Nat.le_of_ble_eq_true rfl, Nat.le_of_ble_eq_true rfl, Machine.Ref.defined_opcodeOf _⟩
theorem jnz (addr : Word) : Statement (.jnz addr) :=
  ⟨rfl, rfl, rfl, Nat.le_of_ble_eq_true rfl, Nat.le_of_ble_eq_true rfl, Machine.Ref.defined_opcodeOf _⟩
theorem call (addr : Word) : Statement (.call addr) :=
  ⟨rfl, rfl, rfl, Nat.le_of_ble_eq_true rfl, Nat.le_of_ble_eq_true rfl, Machine.Ref.defined_opcodeOf _⟩
theorem ret : Statement .ret :=
  ⟨rfl, rfl, rfl, Nat.le_of_ble_eq_true rfl, Nat.le_of_ble_eq_true rfl, Machine.Ref.defined_opcodeOf _⟩
theorem pushA : Statement .pushA :=
  ⟨rfl, rfl, rfl, Nat.le_of_ble_eq_true rfl, Nat.le_of_ble_eq_true rfl, Machine.Ref.defined_opcodeOf _⟩
theorem popA : Statement .popA :=
  ⟨rfl, rfl, rfl, Nat.le_of_ble_eq_true rfl, Nat.le_of_ble_eq_true rfl, Machine.Ref.defined_opcodeOf _⟩
theorem hlt : Statement .hlt :=
  ⟨rfl, rfl, rfl, Nat.le_of_ble_eq_true rfl, Nat.le_of_ble_eq_true rfl, Machine.Ref.defined_opcodeOf _⟩

end Sys2Proof.Laws.EncodedForm
end

