-- ==== Sys2Proof/Laws/RefMemory.lean ====
section
/-! SUPPORT. Memory under the default configuration, where SPLIT is 0x8000 and the stack window is RAM: the
write port, the stack stores, and the two-byte push of CALL. -/
namespace Sys2Proof.Machine

theorem Ref.split_toNat : Ref.config.split.toNat = 0x8000 := rfl

/-- The stack addresses of the default configuration do not wrap (R47, R48). -/
theorem Ref.stackAddress_toNat (sp : Byte) :
    (stackAddress Ref.config sp).toNat = 0xFF00 + sp.toNat := by
  have := sp.isLt
  simp [stackAddress, zext16, Ref.config]; omega

/-- A store at a RAM address under the default configuration (R41). -/
theorem Ref.storeAtMar_ram {s : State} (h : 0x8000 ≤ s.mar.toNat) (k : BitVec 4) (v : Byte)
    (go : State → State) : storeAtMar Ref.config k v s go =
      go { s with ram := writeCell s.ram (s.mar.toNat - 0x8000) v } := by
  rcases storeAtMar_cases Ref.config k v s go with ⟨_, e⟩ | ⟨h', _⟩
  · exact e
  · rw [Ref.split_toNat] at h'; omega

/-- A store at a ROM address under the default configuration (R42, R100). -/
theorem Ref.storeAtMar_rom {s : State} (h : s.mar.toNat < 0x8000) (k : BitVec 4) (v : Byte)
    (go : State → State) : storeAtMar Ref.config k v s go =
      takeFault (.illegalWrite s.mar v) { s with stepCount := k } := by
  rcases storeAtMar_cases Ref.config k v s go with ⟨h', _⟩ | ⟨_, e⟩
  · rw [Ref.split_toNat] at h'; omega
  · exact e

/-- A store at a stack address always lands in RAM, at offset 0x7F00 + SP (R46, R48). -/
theorem Ref.storeAtMar_stack {s : State} {sp : Byte} (h : s.mar = stackAddress Ref.config sp)
    (k : BitVec 4) (v : Byte) (go : State → State) : storeAtMar Ref.config k v s go =
      go { s with ram := writeCell s.ram (0x7F00 + sp.toNat) v } := by
  have e := Ref.stackAddress_toNat sp
  rw [Ref.storeAtMar_ram (by rw [h, e]; omega), h, e,
    show 0xFF00 + sp.toNat - 0x8000 = 0x7F00 + sp.toNat by omega]

/-- PUSH A never faults: its one store, named (R143). -/
theorem execPushA_eq (s : State) : execPushA s = .next { s with
    sp := s.sp - 1#8, mar := stackAddress Ref.config (s.sp - 1#8), stepCount := 0#4,
    ram := writeCell s.ram (0x7F00 + (s.sp - 1#8).toNat) (lo8 s.a) } := by
  rw [execPushA, Ref.storeAtMar_stack rfl]; rfl

/-- CALL never faults: its two stores, named (R140). -/
theorem execCall_eq (target : Word) (s : State) : execCall target s = .next { s with
    t := target, sp := s.sp - 1#8 - 1#8, mar := stackAddress Ref.config (s.sp - 1#8 - 1#8), pc := target,
    stepCount := 0#4,
    ram := writeCell (writeCell s.ram (0x7F00 + (s.sp - 1#8).toNat) (hi8 (s.pc + 2#16)))
      (0x7F00 + (s.sp - 1#8 - 1#8).toNat) (lo8 (s.pc + 2#16)) } := by
  simp only [execCall]
  rw [Ref.storeAtMar_stack rfl, Ref.storeAtMar_stack rfl]; rfl

end Sys2Proof.Machine
end

