-- ==== Sys2Proof/Tests/Slice0.lean ====
section
/-! SUPPORT. The model's own tests: ill-formed terms refused, instruction words written out from the spec's
encodings, one-step vectors of 95_test_vectors.md (named after them; the expected values are the spec's), and for
every statement with hypotheses a witness that meets them. -/
namespace Sys2Proof.Tests
open Sys2Proof Sys2Proof.Machine

/-! ## Well-formedness: one ill-formed term for each check -/

/-- The default configuration with another table. -/
def withTable (rows : ControlTable) : Config := { Ref.config with table := rows }

/-- A table of one opcode, 0x50, with a row at step 2, and a last row after it where it is not the last. -/
def oneRow (w : ControlWord) : Config :=
  withTable (⟨0x50#8, 2, w⟩ :: if w.isLast then [] else [⟨0x50#8, 3, { isLast := true }⟩])

/-- R39. -/
theorem test_split_zero_refused : { Ref.config with split := 0#16 }.splitOk = false := by decide
/-- R48, lower bound. -/
theorem test_stackBase_in_rom_refused :
    { Ref.config with stackBase := 0x7FFF#16 }.stackBaseOk = false := by decide
/-- R48, upper bound. -/
theorem test_stackBase_too_high_refused :
    { Ref.config with stackBase := 0xFF01#16 }.stackBaseOk = false := by decide
/-- R82 item 1: no rows at steps 0, 1 or 16. -/
theorem test_step_out_of_range_refused : [0, 1, 16].all (fun n =>
    !ControlTable.stepsInRange [{ opcode := 0x50#8, step := n, word := { isLast := true } }]) = true := by
  decide
/-- R82 item 2: a gap, no last row, an early last row. -/
theorem test_unterminated_refused :
    ControlTable.terminates [⟨0x50#8, 2, {}⟩, ⟨0x50#8, 4, { isLast := true }⟩] = false ∧
    ControlTable.terminates [⟨0x50#8, 2, {}⟩, ⟨0x50#8, 3, {}⟩] = false ∧
    ControlTable.terminates [⟨0x50#8, 2, { isLast := true }⟩, ⟨0x50#8, 3, { isLast := true }⟩] = false := by
  decide
/-- R82 item 3: an opcode with no row at step 2 is unknown. -/
theorem test_opcode_without_rows_unknown :
    ControlTable.defined (oneRow { isLast := true }).table 0x51#8 = false := by decide
/-- R82 item 4. -/
theorem test_alu_drive_without_op_refused :
    (oneRow { drive := [.alu], latch := [.a], isLast := true }).wellFormed = false := by decide
/-- R82 item 5. -/
theorem test_t_with_its_halves_refused :
    (oneRow { drive := [.a], latch := [.t, .tl], isLast := true }).wellFormed = false ∧
    (oneRow { drive := [.a], latch := [.t, .th], isLast := true }).wellFormed = false := by decide
/-- R82 item 6; vector V7. -/
theorem test_V7_pc_latch_with_counter_refused :
    (oneRow { drive := [.t], latch := [.pc], pcInc := true, cond := .z, isLast := true }).wellFormed = false ∧
    (oneRow { drive := [.t], latch := [.a], cond := .z, isLast := true }).wellFormed = false := by
  decide
/-- R82 item 7. -/
theorem test_sp_latch_with_counter_refused :
    (oneRow { latch := [.sp], spInc := true, isLast := true }).wellFormed = false ∧
    (oneRow { latch := [.sp], spDec := true, isLast := true }).wellFormed = false ∧
    (oneRow { spInc := true, spDec := true, isLast := true }).wellFormed = false := by decide
/-- R73: two rows for one (opcode, step). -/
theorem test_duplicate_row_refused : ControlTable.functional
    [⟨0x50#8, 2, { isLast := true }⟩, ⟨0x50#8, 2, { isLast := true, halt := true }⟩] = false := by decide
/-- R166: construction refuses what the checks refuse. -/
theorem test_construct_refuses : State.construct { Ref.config with split := 0#16 } [] false =
    .refused .illFormedConfig := rfl
/-- R82: the pulse refuses too, so an ill-formed table has no meaning (row of V4 without its operation). -/
theorem test_pulse_refuses :
    pulse (oneRow { drive := [.alu, .b], latch := [.a], isLast := true }) State.reset =
      .refused .illFormedConfig := rfl
/-- R69: no instruction is ill-formed, at the ends of every operand's range. -/
theorem test_every_operand_wellFormed :
    [Instr.ldiA 0x00#8, .ldiB 0xFF#8, .lda 0x0000#16, .call 0xFFFF#16].all Instr.wellFormed = true := by
  decide

/-! ## Decoding: every constructor's word, written out from 30_encoding.md R63 to R67 -/

theorem test_decode_loadStore :
    decodeTableWord 8 0x00 = some .nop ∧
    decodeTableWord 16 0x0501 = some (.ldiA 0x05#8) ∧
    decodeTableWord 16 0xFF02 = some (.ldiB 0xFF#8) ∧
    decodeTableWord 24 0xA00003 = some (.lda 0xA000#16) ∧
    decodeTableWord 24 0x123404 = some (.ldb 0x1234#16) ∧
    decodeTableWord 24 0x800005 = some (.sta 0x8000#16) ∧
    decodeTableWord 24 0x923406 = some (.stb 0x9234#16) ∧
    decodeTableWord 8 0x07 = some .ldx ∧
    decodeTableWord 8 0x08 = some .stx := by
  decide

theorem test_decode_move :
    decodeTableWord 8 0x10 = some .movAB ∧
    decodeTableWord 8 0x11 = some .movBA ∧
    decodeTableWord 8 0x12 = some .movASp ∧
    decodeTableWord 8 0x13 = some .movSpA := by
  decide

theorem test_decode_alu :
    decodeTableWord 8 0x20 = some .add ∧
    decodeTableWord 8 0x21 = some .adc ∧
    decodeTableWord 8 0x22 = some .sub ∧
    decodeTableWord 8 0x23 = some .sbc ∧
    decodeTableWord 8 0x24 = some .and ∧
    decodeTableWord 8 0x25 = some .or ∧
    decodeTableWord 8 0x26 = some .xor ∧
    decodeTableWord 8 0x27 = some .not ∧
    decodeTableWord 8 0x28 = some .shl ∧
    decodeTableWord 8 0x29 = some .shr ∧
    decodeTableWord 8 0x2A = some .inc ∧
    decodeTableWord 8 0x2B = some .dec ∧
    decodeTableWord 8 0x2C = some .cmp := by
  decide

theorem test_decode_control :
    decodeTableWord 24 0x004030 = some (.jmp 0x0040#16) ∧
    decodeTableWord 24 0x004031 = some (.jc 0x0040#16) ∧
    decodeTableWord 24 0x004032 = some (.jnc 0x0040#16) ∧
    decodeTableWord 24 0x004033 = some (.jz 0x0040#16) ∧
    decodeTableWord 24 0x004034 = some (.jnz 0x0040#16) ∧
    decodeTableWord 24 0x123438 = some (.call 0x1234#16) ∧
    decodeTableWord 8 0x39 = some .ret := by
  decide

theorem test_decode_stackAndSystem :
    decodeTableWord 8 0x40 = some .pushA ∧
    decodeTableWord 8 0x41 = some .popA ∧
    decodeTableWord 8 0xFF = some .hlt := by
  decide

/-- R68: the ends of the six unknown ranges. -/
theorem test_decode_unknown : [0x09, 0x0F, 0x14, 0x1F, 0x2D, 0x2F, 0x35, 0x37, 0x3A, 0x3F, 0x42, 0xFE].all
    (fun w => decodeTableWord 8 w == none) = true := by decide

/-- Operand bytes the table gives no bits read as zero. -/
theorem test_decode_short_word : decodeTableWord 8 0x38 = some (.call 0x0000#16) := by decide

/-! ## One step, from the vectors of 95_test_vectors.md -/

/-- The construction state with PC at `p` and bytes placed there. -/
def code (p : Word) (bytes : List Byte) : State :=
  placeBytes Ref.config { State.reset with pc := p } p bytes

/-- The step answers a next state with the property, and that state is what `n` pulses answer. -/
def leaves (n : Nat) (s : State) (p : State → Bool) : Prop :=
  ∃ t, step s = .next t ∧ runPulses Ref.config n s = .next t ∧ p t = true

/-- `n` pulses under the default configuration, its check left out: it is made once, in `runPulses_ref`. -/
def checkedRun : Nat → State → Host.Outcome State Fault Refusal
  | 0, s => .next s
  | n + 1, s =>
    match checkedPulse Ref.config s with
    | .next s' => checkedRun n s'
    | .fault r => .fault r
    | .refused r => .refused r

theorem runPulses_ref (n : Nat) (s : State) : runPulses Ref.config n s = checkedRun n s := by
  induction n generalizing s with
  | zero => rfl
  | succ n ih =>
    simp only [runPulses, checkedRun, pulse_checked Ref.config_wellFormed]
    split <;> simp_all

/-- `leaves`, decided. -/
def leavesBy (n : Nat) (s : State) (p : State → Bool) : Bool :=
  match step s, checkedRun n s with
  | .next t, .next u => decide (t = u) && p t
  | _, _ => false

theorem leaves_of {n : Nat} {s : State} {p : State → Bool} (h : leavesBy n s p = true) : leaves n s p := by
  unfold leavesBy at h
  split at h
  · next t u ht hu =>
    simp only [Bool.and_eq_true, decide_eq_true_eq] at h
    exact ⟨t, ht, by rw [runPulses_ref, hu, h.1], h.2⟩
  · cases h

theorem test_LS1 : leaves 4 { code 0x0000#16 [0x01#8, 0x00#8] with a := 0x1234#16, c := true }
    (fun t => t.a == 0#16 && t.pc == 2#16 && t.mar == 1#16 && t.c && !t.z) := leaves_of (by decide)
theorem test_LS13 : leaves 4 (code 0xFFFE#16 [0x01#8, 0x44#8])
    (fun t => t.a == 0x0044#16 && t.pc == 0#16) := leaves_of (by decide)
theorem test_LS2 : leaves 4 (code 0x0000#16 [0x02#8, 0xFF#8])
    (fun t => t.b == 0x00FF#16 && t.pc == 2#16) := leaves_of (by decide)
theorem test_LS3 : leaves 8 { code 0x0000#16 [0x03#8, 0x00#8, 0xA0#8] with ram := [(0x2000, 0x7F#8)] }
    (fun t => t.a == 0x007F#16 && t.t == 0xA000#16 && t.mar == 0xA000#16 && t.pc == 3#16) := leaves_of (by decide)
theorem test_LS4 : leaves 8 (code 0x0000#16 [0x03#8, 0x01#8, 0x00#8])
    (fun t => t.a == 0x0001#16) := leaves_of (by decide)
theorem test_LS5 : leaves 8 { code 0x0000#16 [0x04#8, 0xFF#8, 0xFF#8] with ram := [(0x7FFF, 0x80#8)] }
    (fun t => t.b == 0x0080#16 && t.t == 0xFFFF#16 && t.mar == 0xFFFF#16) := leaves_of (by decide)
theorem test_LS6 : leaves 8 { code 0x0000#16 [0x05#8, 0x00#8, 0x80#8] with a := 0xBEEF#16 }
    (fun t => t.ram == [(0, 0xEF#8)] && t.a == 0xBEEF#16 && t.t == 0x8000#16 && t.mar == 0x8000#16) := leaves_of (by decide)
theorem test_LS8 : leaves 8 { code 0x0000#16 [0x05#8, 0xFF#8, 0x7F#8] with a := 0x0055#16 }
    (fun t => t.fault == some (.illegalWrite 0x7FFF#16 0x55#8) && t.halted && t.stepCount == 7#4 && t.pc == 3#16
      && t.rom == [(0, 0x05#8), (1, 0xFF#8), (2, 0x7F#8)]) := leaves_of (by decide)
theorem test_LS7 : leaves 8 { code 0x0000#16 [0x06#8, 0x34#8, 0x92#8] with b := 0x0101#16 }
    (fun t => t.ram == [(0x1234, 0x01#8)]) := leaves_of (by decide)
theorem test_X3 : leaves 8 { code 0x0000#16 [0x06#8, 0x00#8, 0x00#8] with b := 0xFF01#16 }
    (fun t => t.fault == some (.illegalWrite 0#16 0x01#8) && t.halted) := leaves_of (by decide)
theorem test_LS9 : leaves 4 { code 0x0000#16 [0x07#8] with b := 0x8005#16, ram := [(0x0005, 0x11#8)] }
    (fun t => t.a == 0x0011#16 && t.mar == 0x8005#16 && t.b == 0x8005#16) := leaves_of (by decide)
theorem test_LS10 : leaves 4 { code 0x0010#16 [0x07#8] with b := 0x0010#16 }
    (fun t => t.a == 0x0007#16) := leaves_of (by decide)
theorem test_LS11 : leaves 4 { code 0x0000#16 [0x08#8] with a := 0x00AB#16, b := 0x9000#16 }
    (fun t => t.ram == [(0x1000, 0xAB#8)]) := leaves_of (by decide)
theorem test_LS12 : leaves 4 { code 0x0000#16 [0x08#8] with a := 0x0001#16 }
    (fun t => t.fault == some (.illegalWrite 0#16 0x01#8) && t.halted && t.stepCount == 3#4) := leaves_of (by decide)
theorem test_MV1 : leaves 3 { code 0x0000#16 [0x10#8] with a := 1#16, b := 0xCAFE#16 }
    (fun t => t.a == 0xCAFE#16 && t.b == 0xCAFE#16 && t.pc == 1#16) := leaves_of (by decide)
theorem test_MV5 : leaves 3 { code 0x0000#16 [0x10#8] with a := 5#16, c := true, z := true }
    (fun t => t.a == 0#16 && t.c && t.z) := leaves_of (by decide)
theorem test_MV2 : leaves 3 { code 0x0000#16 [0x11#8] with a := 0x8001#16 }
    (fun t => t.b == 0x8001#16 && t.pc == 1#16) := leaves_of (by decide)
theorem test_MV3 : leaves 3 { code 0x0000#16 [0x12#8] with sp := 0xFE#8 }
    (fun t => t.a == 0x00FE#16 && t.pc == 1#16) := leaves_of (by decide)
theorem test_MV4 : leaves 3 { code 0x0000#16 [0x13#8] with a := 0x1234#16 }
    (fun t => t.sp == 0x34#8 && t.pc == 1#16) := leaves_of (by decide)

/-- One ALU vector: opcode, A, B, C in; A, C, Z out. B is unchanged and PC advances. -/
abbrev aluVector (op : Byte) (a b : Word) (c : Bool) (a' : Word) (c' z' : Bool) : Prop :=
  leaves 3 { code 0#16 [op] with a := a, b := b, c := c } fun t =>
    t.a == a' && t.c == c' && t.z == z' && t.b == b && t.pc == 1#16

theorem test_A1 : aluVector 0x20#8 0xFFFF#16 0x0001#16 false 0x0000#16 true true := leaves_of (by decide)
theorem test_A3 : aluVector 0x20#8 0x1234#16 0x0000#16 true 0x1234#16 false false := leaves_of (by decide)
theorem test_A4 : aluVector 0x21#8 0xFFFF#16 0x0000#16 true 0x0000#16 true true := leaves_of (by decide)
theorem test_A6 : aluVector 0x21#8 0xFFFF#16 0xFFFF#16 true 0xFFFF#16 true false := leaves_of (by decide)
theorem test_A7 : aluVector 0x22#8 0x0005#16 0x0005#16 false 0x0000#16 true true := leaves_of (by decide)
theorem test_A8 : aluVector 0x22#8 0x0000#16 0x0001#16 true 0xFFFF#16 false false := leaves_of (by decide)
theorem test_A10 : aluVector 0x23#8 0x0005#16 0x0005#16 false 0xFFFF#16 false false := leaves_of (by decide)
theorem test_A11 : aluVector 0x23#8 0x0005#16 0x0005#16 true 0x0000#16 true true := leaves_of (by decide)
theorem test_A13 : aluVector 0x24#8 0xF0F0#16 0x0FF0#16 true 0x00F0#16 true false := leaves_of (by decide)
theorem test_A14 : aluVector 0x24#8 0xF0F0#16 0x0F0F#16 false 0x0000#16 false true := leaves_of (by decide)
theorem test_A15 : aluVector 0x25#8 0x0000#16 0x0000#16 false 0x0000#16 false true := leaves_of (by decide)
theorem test_A16 : aluVector 0x25#8 0x8000#16 0x0001#16 true 0x8001#16 true false := leaves_of (by decide)
theorem test_A17 : aluVector 0x26#8 0xAAAA#16 0xAAAA#16 true 0x0000#16 true true := leaves_of (by decide)
theorem test_A18 : aluVector 0x26#8 0xAAAA#16 0x5555#16 false 0xFFFF#16 false false := leaves_of (by decide)
theorem test_A19 : aluVector 0x27#8 0x0000#16 0x0000#16 false 0xFFFF#16 false false := leaves_of (by decide)
theorem test_A20 : aluVector 0x27#8 0xFFFF#16 0x0000#16 true 0x0000#16 true true := leaves_of (by decide)
theorem test_A21 : aluVector 0x28#8 0x8001#16 0x0000#16 false 0x0002#16 true false := leaves_of (by decide)
theorem test_A22 : aluVector 0x28#8 0x4000#16 0x0000#16 true 0x8000#16 false false := leaves_of (by decide)
theorem test_A24 : aluVector 0x29#8 0x0001#16 0x0000#16 false 0x0000#16 true true := leaves_of (by decide)
theorem test_A25 : aluVector 0x29#8 0x8000#16 0x0000#16 true 0x4000#16 false false := leaves_of (by decide)
theorem test_A26 : aluVector 0x2A#8 0xFFFF#16 0x0000#16 false 0x0000#16 true true := leaves_of (by decide)
theorem test_A27 : aluVector 0x2A#8 0x00FF#16 0x0000#16 true 0x0100#16 false false := leaves_of (by decide)
theorem test_A28 : aluVector 0x2B#8 0x0000#16 0x0000#16 true 0xFFFF#16 false false := leaves_of (by decide)
theorem test_A29 : aluVector 0x2B#8 0x0001#16 0x0000#16 false 0x0000#16 true true := leaves_of (by decide)
theorem test_A32 : aluVector 0x2C#8 0x0003#16 0x0005#16 true 0x0003#16 false false := leaves_of (by decide)
theorem test_A33 : aluVector 0x2C#8 0x0009#16 0x0002#16 false 0x0009#16 true false := leaves_of (by decide)
theorem test_CT1 : leaves 7 (code 0x0010#16 [0x30#8, 0x40#8, 0x00#8])
    (fun t => t.pc == 0x40#16 && t.t == 0x40#16 && t.mar == 0x12#16) := leaves_of (by decide)
theorem test_CT10 : leaves 7 (code 0x0010#16 [0x30#8, 0x10#8, 0x00#8])
    (fun t => t.pc == 0x10#16 && !t.halted) := leaves_of (by decide)
theorem test_CT2 : leaves 7 { code 0x0010#16 [0x31#8, 0x40#8, 0x00#8] with c := true }
    (fun t => t.pc == 0x40#16 && t.t == 0x40#16) := leaves_of (by decide)
theorem test_CT3 : leaves 7 { code 0x0010#16 [0x31#8, 0x40#8, 0x00#8] with c := false }
    (fun t => t.pc == 0x13#16 && t.t == 0x40#16) := leaves_of (by decide)
theorem test_CT4 : leaves 7 { code 0x0010#16 [0x32#8, 0x40#8, 0x00#8] with c := false }
    (fun t => t.pc == 0x40#16 && t.t == 0x40#16) := leaves_of (by decide)
theorem test_CT5 : leaves 7 { code 0x0010#16 [0x32#8, 0x40#8, 0x00#8] with c := true }
    (fun t => t.pc == 0x13#16 && t.t == 0x40#16) := leaves_of (by decide)
theorem test_CT6 : leaves 7 { code 0x0010#16 [0x33#8, 0x40#8, 0x00#8] with z := true }
    (fun t => t.pc == 0x40#16 && t.t == 0x40#16) := leaves_of (by decide)
theorem test_CT7 : leaves 7 { code 0x0010#16 [0x33#8, 0x40#8, 0x00#8] with z := false }
    (fun t => t.pc == 0x13#16 && t.t == 0x40#16) := leaves_of (by decide)
theorem test_CT8 : leaves 7 { code 0x0010#16 [0x34#8, 0x40#8, 0x00#8] with z := false }
    (fun t => t.pc == 0x40#16 && t.t == 0x40#16) := leaves_of (by decide)
theorem test_CT9 : leaves 7 { code 0x0010#16 [0x34#8, 0x40#8, 0x00#8] with z := true }
    (fun t => t.pc == 0x13#16 && t.t == 0x40#16) := leaves_of (by decide)
theorem test_CT11 : leaves 11 (code 0x0010#16 [0x38#8, 0x00#8, 0x01#8])
    (fun t => t.ram == [(0x7FFE, 0x13#8)] && t.sp == 0xFE#8 && t.mar == 0xFFFE#16 && t.t == 0x0100#16 && t.pc == 0x0100#16) := leaves_of (by decide)
theorem test_CT13 : leaves 11 { code 0x00FE#16 [0x38#8, 0x34#8, 0x12#8] with sp := 0x10#8 }
    (fun t => t.ram == [(0x7F0E, 0x01#8), (0x7F0F, 0x01#8)] && t.sp == 0x0E#8 && t.pc == 0x1234#16) := leaves_of (by decide)
theorem test_CT14 : leaves 7 { code 0x0000#16 [0x39#8] with sp := 0xFF#8, ram := [(0x7F00, 0x12#8), (0x7FFF, 0x34#8)] }
    (fun t => t.pc == 0x1234#16 && t.sp == 0x01#8) := leaves_of (by decide)
theorem test_CT15 : leaves 7 (code 0x0000#16 [0x39#8])
    (fun t => t.pc == 0#16 && t.sp == 2#8) := leaves_of (by decide)
theorem test_SK1 : leaves 5 { code 0x0000#16 [0x40#8] with a := 0x1242#16 }
    (fun t => t.ram == [(0x7FFF, 0x42#8)] && t.sp == 0xFF#8 && t.mar == 0xFFFF#16) := leaves_of (by decide)
theorem test_SK3 : leaves 5 { code 0x0000#16 [0x40#8] with a := 7#16, sp := 1#8 }
    (fun t => t.ram == [(0x7F00, 0x07#8)] && t.sp == 0#8) := leaves_of (by decide)
theorem test_SK4 : leaves 4 { code 0x0000#16 [0x41#8] with sp := 0xFF#8, ram := [(0x7FFF, 0x99#8)] }
    (fun t => t.a == 0x0099#16 && t.sp == 0#8) := leaves_of (by decide)
theorem test_SK5 : leaves 4 (code 0x0000#16 [0x41#8])
    (fun t => t.a == 0#16 && t.sp == 1#8 && t.mar == 0xFF00#16) := leaves_of (by decide)
theorem test_SY1 : leaves 3 (code 0x0020#16 [0x00#8])
    (fun t => t == { code 0x20#16 [0x00#8] with pc := 0x21#16, mar := 0x20#16 }) := leaves_of (by decide)
theorem test_SY2 : leaves 3 (code 0x0020#16 [0xFF#8])
    (fun t => t.pc == 0x21#16 && t.halted && t.fault == none && t.stepCount == 2#4) := leaves_of (by decide)
theorem test_SY3 : leaves 1 { State.reset with halted := true, a := 3#16 }
    (fun t => t == { State.reset with halted := true, a := 3#16 }) := leaves_of (by decide)
/-- SY4: external reset (R168). -/
theorem test_SY4 : { code 0#16 [0xFF#8] with halted := true, a := 3#16, ram := [(5, 9#8)] }.externalReset =
    code 0#16 [0xFF#8] := by decide
theorem test_X1 : leaves 2 (code 0x0000#16 [0x09#8])
    (fun t => t.mar == 0#16 && t.ir == 0x0009#16 && t.pc == 1#16 && t.opc == 0x09#8 && t.stepCount == 1#4 &&
      t.halted && t.fault == some (.unknownOpcode 0x09#8 0x0009#16)) := leaves_of (by decide)
theorem test_X6 : leaves 2 (code 0x8000#16 [0x50#8])
    (fun t => t.fault == some (.unknownOpcode 0x50#8 0x0050#16) && t.pc == 0x8001#16) := leaves_of (by decide)
/-- X5. -/
theorem test_X5 : State.construct Ref.config (List.replicate 65536 0#8) true =
    .fault (.invalidImageSize 65536) := by
  have h := Ref.config_wellFormed
  have key : ∀ image : List Byte, image.length = 65536 → State.construct Ref.config image true =
      .fault (.invalidImageSize 65536) := by
    intro image hl
    simp [State.construct, h, hl, imageSize]
  exact key _ List.length_replicate

/-- SK6, with STACK_BASE = 0x8000: five pulses of PUSH A. -/
theorem test_SK6 : (match runPulses { Ref.config with stackBase := 0x8000#16 } 5
      { code 0#16 [0x40#8] with a := 1#16 } with
    | .next t => t.ram == [(0x00FF, 0x01#8)] && t.sp == 0xFF#8 && t.mar == 0x80FF#16
    | _ => false) = true := by decide +kernel

/-- A step within an instruction finishes it: LDI A after its fetch pulse (program P1). -/
theorem test_step_within_instruction :
    (match runPulses Ref.config 1 (code 0#16 [0x01#8, 0x05#8]), step (code 0#16 [0x01#8, 0x05#8]) with
      | .next s, .next t => (match step s with | .next u => u == t && t.a == 0x0005#16 | _ => false)
      | _, _ => false) = true := by decide +kernel

/-- The host's placement: the table word runs as the first instruction after reset. -/
theorem test_withFetchWord : leaves 8 (State.reset.withFetchWord 24 0xA00003)
    (fun t => t.t == 0xA000#16 && t.pc == 3#16 && t.opc == 0x03#8) := leaves_of (by decide)

/-! ## The engine vectors (one execute pulse of a row outside SIS16-REF) -/

/-- A state about to execute the row of `oneRow`. -/
def atRow : State := { State.reset with opc := 0x50#8, stepCount := 2#4 }

/-- One pulse of a row. -/
def row (w : ControlWord) (s : State) (p : State → Bool) : Bool :=
  match pulse (oneRow w) s with
  | .next t => p t
  | _ => false

theorem test_V1 : row { drive := [.a, .b], latch := [.mar] } { atRow with a := 0x00F0#16, b := 0x0F0F#16 }
    (fun t => t.mar == 0x0FFF#16) = true := by decide
theorem test_V2 : row { latch := [.a] } { atRow with a := 0x1234#16 }
    (fun t => t.a == 0#16) = true := by decide
theorem test_V3 : row { drive := [.a], latch := [.tl, .th] } { atRow with a := 0x1234#16, t := 0xABCD#16 }
    (fun t => t.t == 0x3434#16) = true := by decide
theorem test_V4 : row { drive := [.alu, .b], latch := [.a], aluOp := some .add } { atRow with a := 0xFFFF#16, b := 1#16 }
    (fun t => t.a == 1#16 && t.c && t.z) = true := by decide
theorem test_V5 : row { drive := [.mem, .a], latch := [.mem] } { atRow with a := 0x00F0#16, mar := 0x8000#16, ram := [(0, 0x0F#8)] }
    (fun t => t.ram == [(0, 0xFF#8)]) = true := by decide
theorem test_V6 : row { drive := [.t], latch := [.pc], cond := .z } { atRow with pc := 0x10#16, t := 0x40#16 }
    (fun t => t == { atRow with pc := 0x10#16, t := 0x40#16, stepCount := 3#4 }) = true := by decide
theorem test_V10 : row { drive := [.a], latch := [.b] } { atRow with c := true, z := true, b := 7#16 }
    (fun t => t.c && t.z && t.b == 0#16) = true := by decide
theorem test_V11 : row { drive := [.a], latch := [.mar], halt := true, isLast := true } { atRow with mar := 7#16 }
    (fun t => t.mar == 0#16 && t.halted && t.stepCount == 2#4) = true := by decide
theorem test_V12 : row { drive := [.a], latch := [.mem], halt := true } { atRow with mar := 0x40#16, a := 0x1277#16 }
    (fun t => t.rom == [] && t.fault == some (.illegalWrite 0x40#16 0x77#8) && t.halted) = true := by decide
theorem test_V14 : row { drive := [.sp], latch := [.a], spDec := true } { atRow with sp := 5#8 }
    (fun t => t.a == 5#16 && t.sp == 4#8) = true := by decide
theorem test_V15 : row { drive := [.pch], latch := [.a] } { atRow with pc := 0x12FE#16 }
    (fun t => t.a == 0x0012#16) = true := by decide
theorem test_V16 : row { drive := [.spa], latch := [.mar] } { atRow with sp := 3#8 }
    (fun t => t.mar == 0xFF03#16) = true := by decide

/-- V8 and V9: fetch, with the wrap of PC. -/
theorem test_V8_V9 :
    fetchPulse Ref.config { State.reset with pc := 5#16, rom := [(5, 0x9C#8)] } =
      { State.reset with mar := 5#16, ir := 0x009C#16, pc := 6#16, stepCount := 1#4, rom := [(5, 0x9C#8)] } ∧
    fetchPulse Ref.config { State.reset with pc := 0xFFFF#16, ram := [(0x7FFF, 0x3C#8)] } =
      { State.reset with mar := 0xFFFF#16, ir := 0x003C#16, pc := 0#16, stepCount := 1#4,
                         ram := [(0x7FFF, 0x3C#8)] } := by decide

/-- The canonical form: writing 0x00 unlists a byte, and equal memories are equal lists. -/
theorem test_canonical_memory : writeCell (writeCell [] 3 7#8) 3 0#8 = [] ∧
    writeCell (writeCell [] 3 7#8) 1 9#8 = writeCell (writeCell [] 1 9#8) 3 7#8 := by decide

/-- Inspection shows the whole state, ROM included (R36, D27, D29), and a window of RAM only where asked for. -/
theorem test_inspect :
    (({ State.reset with ram := [(6, 9#8)] }).inspect (some (5, 3))).ramWindow = some [0#8, 9#8, 0#8] ∧
    readCell ((code 0#16 [0x05#8]).inspect none).state.rom 0 = 0x05#8 ∧
    ((code 0#16 [0x05#8]).inspect none).ramWindow = none := by decide

/-- A window that runs past RAM's last offset stops there (log entry 13). -/
theorem test_inspect_past_the_end : State.reset.inspect (some (65534, 5)) = ⟨State.reset, some [0#8]⟩ ∧
    State.reset.inspect (some (65535, 2)) = ⟨State.reset, some []⟩ := by decide

/-! ## Witnesses: for every statement with hypotheses, concrete data that meets them -/

/-- An image of the right size (R165). -/
def zeroImage : List Byte := List.replicate 65535 0#8

theorem constructs {image : List Byte} (h : image.length = 65535) (debug : Bool) :
    State.construct Ref.config image debug = .next (State.ofRom (Memory.ofBytes image)) := by
  simp [State.construct, Ref.config_wellFormed, h, imageSize]

theorem witness_ConstructionYieldsResetState :
    { Ref.config with split := 0#16 }.wellFormed = false ∧
    Ref.config.wellFormed = true ∧ zeroImage.length = 65535 ∧ 65534 < zeroImage.length :=
  ⟨by decide, Ref.config_wellFormed, List.length_replicate, by rw [zeroImage, List.length_replicate]; omega⟩

/-- The lengths of E2 next to the right one. -/
theorem witness_WrongImageSizeFails : Ref.config.wellFormed = true ∧
    (List.replicate 65534 (0#8 : Byte)).length ≠ 65535 ∧ (List.replicate 65536 (0#8 : Byte)).length ≠ 65535 :=
  ⟨Ref.config_wellFormed, by rw [List.length_replicate]; omega, by rw [List.length_replicate]; omega⟩

theorem witness_ExternalResetRestoresConstruction : ∃ start s : State,
    State.construct Ref.config zeroImage true = .next start ∧ runPulses Ref.config 1 start = .next s :=
  ⟨_, _, constructs List.length_replicate true, runPulses_succ 0 (pulse_fetch Ref.config_wellFormed rfl rfl)⟩

theorem witness_HaltedMachineIsFrozen :
    Ref.config.wellFormed = true ∧ { State.reset with halted := true }.halted = true :=
  ⟨Ref.config_wellFormed, rfl⟩

/-- V8 and V9: PC inside the address space and at its top. -/
theorem witness_FetchLaw : Ref.config.wellFormed = true ∧ [0x0005#16, 0xFFFF#16].Forall fun p =>
    { State.reset with pc := p }.halted = false ∧ { State.reset with pc := p }.stepCount = 0#4 :=
  ⟨Ref.config_wellFormed, by decide⟩

/-- A state at its decode step. -/
def atDecode (ir : Word) : State := { State.reset with ir := ir, stepCount := 1#4 }

theorem witness_DecodeSelectsOpcode : Ref.config.wellFormed = true ∧ [0x0000#16, 0x0041#16, 0x00FF#16].Forall fun ir =>
    (atDecode ir).halted = false ∧ (atDecode ir).stepCount = 1#4 ∧
      ControlTable.defined Ref.config.table (lo8 (atDecode ir).ir) = true :=
  ⟨Ref.config_wellFormed, by decide⟩

theorem witness_UnknownOpcodeHaltsAtDecode : Ref.config.wellFormed = true ∧ [0x0009#16, 0x0042#16, 0x00FE#16].Forall fun ir =>
    (atDecode ir).halted = false ∧ (atDecode ir).stepCount = 1#4 ∧
      ControlTable.defined Ref.config.table (lo8 (atDecode ir).ir) = false :=
  ⟨Ref.config_wellFormed, by decide⟩

theorem witness_BusIsOrOfDrivers : ({} : ControlWord).drive = [] ∧
    ({ drive := [.a, .b] } : ControlWord).drive = [.a, .b] := by decide

theorem witness_DriveSourceValues :
    ({ drive := [.alu], aluOp := some .add } : ControlWord).aluOp = some .add := rfl

/-- A row's pulse takes place in a state: the premises every engine statement has. -/
abbrev Executes (w : ControlWord) (s : State) : Prop :=
  (oneRow w).wellFormed = true ∧ s.halted = false ∧ 2 ≤ s.stepCount.toNat ∧
    ControlTable.row? (oneRow w).table s.opc s.stepCount.toNat = some w

/-- `atRow` with MAR at an address. -/
def atRowMar (x : Word) : State := { atRow with mar := x }

/-- Each clause: a gated PC latch under every condition, the counters, neither; T whole, T by halves; SP; MEM with
MAR on both sides of SPLIT; and none. -/
theorem witness_LatchesCaptureTheBus : ∀ w ∈ ([
      { drive := [.t], latch := [.pc] }, { drive := [.t], latch := [.pc], cond := .c },
      { drive := [.t], latch := [.pc], cond := .nc }, { drive := [.t], latch := [.pc], cond := .z },
      { drive := [.t], latch := [.pc], cond := .nz }, { pcInc := true }, {},
      { drive := [.a, .b], latch := [.mar, .ir, .a, .b, .t] }, { drive := [.a], latch := [.tl, .th] },
      { drive := [.a], latch := [.sp] }, { spInc := true }, { spDec := true },
      { drive := [.a], latch := [.mem] } ] : List ControlWord),
    [0x7FFF#16, 0x8000#16].Forall fun x =>
      Executes w (atRowMar x) ∧ (atRowMar x).ram.wf = true := by decide

theorem witness_FlagsFollowTheAluResult :
    Executes { aluOp := some .sub } atRow ∧ Executes { drive := [.a], latch := [.b] } atRow := by decide

/-- V10, and a fetch. -/
theorem witness_FlagIdempotence :
    (∃ s' : State, pulse (oneRow {}) atRow = .next s' ∧
      ∀ w, atRow.halted = false → 2 ≤ atRow.stepCount.toNat →
        ControlTable.row? (oneRow {}).table atRow.opc atRow.stepCount.toNat = some w → w.aluOp = none) ∧
    ∃ s' : State, pulse Ref.config State.reset = .next s' ∧
      ∀ w, State.reset.halted = false → 2 ≤ State.reset.stepCount.toNat →
        ControlTable.row? Ref.config.table State.reset.opc State.reset.stepCount.toNat = some w →
          w.aluOp = none := by
  refine ⟨⟨_, pulse_execute (by decide) rfl (by decide) rfl, fun w _ _ h => ?_⟩,
    ⟨_, pulse_fetch Ref.config_wellFormed rfl rfl, fun w _ h2 => absurd h2 (by decide)⟩⟩
  have h' : some ({} : ControlWord) = some w := h
  cases h'; rfl

theorem witness_SequencerAdvance : ∀ w ∈ ([{ halt := true, isLast := true }, { isLast := true }, {},
      { drive := [.a], latch := [.mem] } ] : List ControlWord),
    Executes w (atRowMar 0x8000#16) ∧
      (LatchTarget.mem ∉ w.latch ∨ (oneRow w).split.toNat ≤ (atRowMar 0x8000#16).mar.toNat) := by decide

/-- MAR at both ends of ROM. -/
theorem witness_RomWriteIsRejected : [0x0000#16, 0x7FFF#16].Forall fun x =>
    Executes { drive := [.a], latch := [.mem] } (atRowMar x) ∧
      (atRowMar x).mar.toNat < (oneRow { drive := [.a], latch := [.mem] }).split.toNat := by decide

/-- MAR at both ends of RAM. -/
theorem witness_WritePortStoresOneByte : [0x8000#16, 0xFFFF#16].Forall fun x =>
    Executes { drive := [.a], latch := [.mem] } (atRowMar x) ∧ (atRowMar x).ram.wf = true ∧
      (oneRow { drive := [.a], latch := [.mem] }).split.toNat ≤ (atRowMar x).mar.toNat := by decide

/-- V5. -/
theorem witness_ReadAndWriteInOnePulse : [0x8000#16, 0xFFFF#16].Forall fun x =>
    Executes { drive := [.mem, .a], latch := [.mem] } (atRowMar x) ∧ (atRowMar x).ram.wf = true ∧
      (oneRow { drive := [.mem, .a], latch := [.mem] }).split.toNat ≤ (atRowMar x).mar.toNat := by decide

theorem witness_RomNeverChanges :
    (∃ s' : State, runPulses Ref.config 3 (code 0#16 [0x08#8]) = .next s') ∧
    ∃ s' : State, step (code 0#16 [0x08#8]) = .next s' :=
  ⟨⟨_, (runPulses_ref 3 _).trans rfl⟩, ⟨_, rfl⟩⟩

/-- LDI A, 0x05 after its decode (program P1, pulse 2). -/
def mid : State := { code 0#16 [0x01#8, 0x05#8] with
  pc := 1#16, ir := 0x0001#16, opc := 0x01#8, stepCount := 2#4 }

theorem witness_OpcIsWrittenByDecodeAlone :
    (∃ s' : State, pulse Ref.config (atDecode 0x0001#16) = .next s') ∧
    (∃ s' : State, pulse Ref.config mid = .next s') ∧ mid.opc = lo8 mid.ir ∧ 2 ≤ mid.stepCount.toNat :=
  ⟨⟨_, pulse_decode Ref.config_wellFormed rfl rfl⟩,
    ⟨_, pulse_execute Ref.config_wellFormed rfl (by decide) rfl⟩, by decide, by decide⟩

/-- A halted machine, and the three causes: an unknown opcode, `halt`, a MEM latch on ROM. -/
theorem witness_HaltedHasThreeCauses :
    (∃ s' : State, pulse Ref.config { State.reset with halted := true } = .next s') ∧
    (∃ s' : State, pulse Ref.config (atDecode 0x0009#16) = .next s' ∧ s'.halted = true) ∧
    (∃ s' : State, pulse (oneRow { halt := true }) atRow = .next s' ∧ s'.halted = true) ∧
    ∃ s' : State, pulse (oneRow { latch := [.mem] }) (atRowMar 0x7FFF#16) = .next s' ∧ s'.halted = true :=
  ⟨⟨_, pulse_halted Ref.config_wellFormed rfl⟩, ⟨_, pulse_decode Ref.config_wellFormed rfl rfl, by decide⟩,
    ⟨_, pulse_execute (by decide) rfl (by decide) rfl, by decide⟩,
    ⟨_, pulse_execute (by decide) rfl (by decide) rfl, by decide⟩⟩

/-- Both faults raised, and a fault already recorded. -/
theorem witness_FaultIsWrittenOnceWithHalt :
    (∃ s' : State, pulse Ref.config (atDecode 0x0009#16) = .next s' ∧ s'.fault ≠ none) ∧
    (∃ s' : State, pulse (oneRow { latch := [.mem] }) (atRowMar 0#16) = .next s' ∧ s'.fault ≠ none) ∧
    ∃ s' : State, pulse Ref.config
      { State.reset with halted := true, fault := some (.illegalWrite 0#16 0#8) } = .next s' :=
  ⟨⟨_, pulse_decode Ref.config_wellFormed rfl rfl, by decide⟩,
    ⟨_, pulse_execute (by decide) rfl (by decide) rfl, by decide⟩,
    ⟨_, pulse_halted Ref.config_wellFormed rfl⟩⟩

theorem mid_sound : mid.Sound Ref.config :=
  ⟨by decide, by decide, by decide, by decide, by decide, by decide, by decide⟩

/-- A machine halted on an IllegalWrite. -/
def faulted : State := { State.reset with
  halted := true, opc := 0x05#8, stepCount := 7#4, fault := some (.illegalWrite 0x7FFF#16 0x55#8) }

theorem faulted_sound : faulted.Sound Ref.config :=
  ⟨by decide, by decide, by decide, by decide, by decide, by decide, by decide⟩

theorem witness_PulseKeepsSoundState :
    (Ref.config.wellFormed = true ∧ mid.Sound Ref.config ∧ faulted.Sound Ref.config) ∧
    { Ref.config with split := 0#16 }.wellFormed = false :=
  ⟨⟨Ref.config_wellFormed, mid_sound, faulted_sound⟩, by decide⟩

theorem witness_ConstructionIsSound : ∃ s : State,
    State.construct Ref.config zeroImage false = .next s := ⟨_, constructs List.length_replicate false⟩

/-- Addresses on both sides of SPLIT, at both ends of its range, and SPLIT = 0. -/
theorem witness_EveryAddressIsInsideAnImage :
    ([0x0001#16, 0x8000#16, 0xFFFF#16].Forall fun split => 1 ≤ { Ref.config with split := split }.split.toNat ∧
      (split - 1#16).toNat < { Ref.config with split := split }.split.toNat ∧
      { Ref.config with split := split }.split.toNat ≤ split.toNat) ∧
    { Ref.config with split := 0#16 }.split = 0#16 := by decide

/-- STACK_BASE at both ends of its range, and just outside it. -/
theorem witness_StackWindowIsRam :
    ([0x8000#16, 0xFF00#16].Forall fun base => { Ref.config with stackBase := base }.split.toNat ≤ base.toNat ∧
      base.toNat ≤ 0xFF00) ∧
    [0x7FFF#16, 0xFF01#16].Forall fun base => ¬(Ref.config.split.toNat ≤ base.toNat ∧ base.toNat ≤ 0xFF00) := by
  decide

/-- Opcodes of both kinds, at the ends of the ranges of R68. -/
theorem witness_DecoderAndTableAgree :
    ([0x00#8, 0x08#8, 0x41#8, 0xFF#8].Forall fun op => ControlTable.defined Ref.config.table op = true) ∧
    [0x09#8, 0x42#8, 0xFE#8].Forall fun op =>
      ControlTable.defined Ref.config.table op = false ∧ unknownByR68 op = true := by decide

theorem witness_DecodeOfEncode : (Instr.call 0xFFFF#16).wellFormed = true := rfl

theorem witness_EncodeOfDecode :
    decode [0x05#8, 0x00#8, 0x80#8, 0x99#8] = .ok (.sta 0x8000#16, [0x99#8]) := rfl

/-- STA 0x8000 at the top of the address space, so that its operand wraps. -/
theorem witness_StepRunsDecodedInstruction :
    (code 0xFFFF#16 [0x05#8, 0x00#8, 0x80#8]).halted = false ∧
    (code 0xFFFF#16 [0x05#8, 0x00#8, 0x80#8]).stepCount = 0#4 ∧
    decode (bytesAtPc Ref.config (code 0xFFFF#16 [0x05#8, 0x00#8, 0x80#8])) = .ok (.sta 0x8000#16, []) :=
  ⟨rfl, rfl, rfl⟩

theorem witness_StepEqualsItsPulses :
    (code 0#16 [0x38#8, 0x34#8, 0x12#8]).halted = false ∧
    (code 0#16 [0x38#8, 0x34#8, 0x12#8]).stepCount = 0#4 ∧
    decode (bytesAtPc Ref.config (code 0#16 [0x38#8, 0x34#8, 0x12#8])) = .ok (.call 0x1234#16, []) ∧
    (0 < 1 ∧ 1 < pulsesByR175 (.call 0x1234#16)) ∧ 0 < 10 ∧ 10 < pulsesByR175 (.call 0x1234#16) :=
  ⟨rfl, rfl, rfl, by decide, by decide⟩

theorem witness_StepIsPulsesToTheBoundary : mid.Sound Ref.config ∧ mid.halted = false := ⟨mid_sound, rfl⟩

theorem witness_StepKeepsSoundState : mid.Sound Ref.config ∧ faulted.Sound Ref.config :=
  ⟨mid_sound, faulted_sound⟩

/-- X4: the unknown opcodes it names. -/
theorem witness_UnknownOpcodeStep : [0x09#8, 0x0F#8, 0x14#8, 0x2D#8, 0x35#8, 0x3A#8, 0x42#8, 0xFE#8].Forall fun op =>
    (code 0#16 [op]).halted = false ∧ (code 0#16 [op]).stepCount = 0#4 ∧
      unknownByR68 (opcodeAt (code 0#16 [op])) = true := by decide

theorem witness_FetchWordRunsItsInstruction : State.reset.rom.wf = true ∧ State.reset.ram.wf = true ∧
    decodeTableWord 16 0x0501 = some (.ldiA 0x05#8) := by decide

/-- An instruction stands at PC of a running machine at an instruction boundary. -/
abbrev At (op : Byte) (s : State) : Prop := s.halted = false ∧ s.stepCount = 0#4 ∧ opcodeAt s = op

theorem witness_LoadImmediateResults : [0x01#8, 0x02#8].Forall fun op => At op (code 0#16 [op, 0x80#8]) := by decide

theorem witness_LoadAbsoluteResults :
    [0x03#8, 0x04#8].Forall fun op => At op (code 0#16 [op, 0xFF#8, 0xFF#8]) := by decide

/-- The addresses on both sides of SPLIT. -/
theorem witness_StoreAbsoluteResults : [0x05#8, 0x06#8].Forall fun op =>
    (At op (code 0#16 [op, 0x00#8, 0x80#8]) ∧ 0x8000 ≤ (addr16At (code 0#16 [op, 0x00#8, 0x80#8])).toNat) ∧
    At op (code 0#16 [op, 0xFF#8, 0x7F#8]) ∧ (addr16At (code 0#16 [op, 0xFF#8, 0x7F#8])).toNat < 0x8000 := by
  decide

/-- B on both sides of SPLIT. -/
theorem witness_IndirectAccessResults : At 0x07#8 (code 0#16 [0x07#8]) ∧
    ([0x8000#16, 0xFFFF#16].Forall fun b => At 0x08#8 { code 0#16 [0x08#8] with b := b } ∧ 0x8000 ≤ b.toNat) ∧
    [0x0000#16, 0x7FFF#16].Forall fun b => At 0x08#8 { code 0#16 [0x08#8] with b := b } ∧ b.toNat < 0x8000 := by
  decide

theorem witness_MoveResults :
    [0x10#8, 0x11#8, 0x12#8, 0x13#8].Forall fun op => At op (code 0#16 [op]) := by decide

theorem witness_AddSubtractResults :
    [0x20#8, 0x21#8, 0x22#8, 0x23#8].Forall fun op => At op (code 0#16 [op]) := by decide

theorem witness_LogicResults :
    [0x24#8, 0x25#8, 0x26#8, 0x27#8].Forall fun op => At op (code 0#16 [op]) := by decide

theorem witness_ShiftAndCountResults :
    [0x28#8, 0x29#8, 0x2A#8, 0x2B#8].Forall fun op => At op (code 0#16 [op]) := by decide

theorem witness_CompareResults : At 0x2C#8 (code 0#16 [0x2C#8]) := by decide

theorem witness_JumpResults : [0x30#8, 0x31#8, 0x32#8, 0x33#8, 0x34#8].Forall fun op =>
    ∀ flag ∈ [true, false], At op { code 0#16 [op, 0x40#8, 0x00#8] with c := flag, z := flag } := by decide

/-- The stack window at its ends, where SP wraps. -/
theorem witness_CallResults : [0x00#8, 0x01#8, 0xFF#8].Forall fun sp =>
    At 0x38#8 { code 0#16 [0x38#8, 0x00#8, 0x01#8] with sp := sp } ∧
      { code 0#16 [0x38#8, 0x00#8, 0x01#8] with sp := sp }.ram.wf = true := by decide

theorem witness_ReturnResults : [0x00#8, 0xFE#8, 0xFF#8].Forall fun sp =>
    At 0x39#8 { code 0#16 [0x39#8] with sp := sp } := by decide

theorem witness_PushPopResults : [0x40#8, 0x41#8].Forall fun op => [0x00#8, 0xFF#8].Forall fun sp =>
    At op { code 0#16 [op] with sp := sp } := by decide

theorem witness_NopAndHaltResults : [0x00#8, 0xFF#8].Forall fun op => At op (code 0#16 [op]) := by decide

/-- One of each shape: a move, an arithmetic and a logic instruction, CMP, HLT. -/
theorem witness_RegisterInstructionsFrame :
    (∀ i ∈ [Instr.movAB, .add, .and, .cmp, .hlt], registerOnly i = true) ∧
    (∃ t, exec .movAB State.reset = .next t) ∧ (∃ t, exec .add State.reset = .next t) ∧
    (∃ t, exec .and State.reset = .next t) ∧ (∃ t, exec .cmp State.reset = .next t) ∧
    ∃ t, exec .hlt State.reset = .next t :=
  ⟨by decide, ⟨_, rfl⟩, ⟨_, rfl⟩, ⟨_, rfl⟩, ⟨_, rfl⟩, ⟨_, rfl⟩⟩

theorem witness_LoadsFrame :
    (∀ i ∈ [Instr.ldiA 1#8, .ldb 0xFFFF#16, .ret, .popA], loadsOnly i = true) ∧
    (∃ t, exec (.ldiA 1#8) State.reset = .next t) ∧ (∃ t, exec (.ldb 0xFFFF#16) State.reset = .next t) ∧
    (∃ t, exec .ret State.reset = .next t) ∧ ∃ t, exec .popA State.reset = .next t :=
  ⟨by decide, ⟨_, rfl⟩, ⟨_, rfl⟩, ⟨_, rfl⟩, ⟨_, rfl⟩⟩

/-- A RAM store, a ROM store, and STX. -/
theorem witness_StoresFrame : State.reset.ram.wf = true ∧
    (storeAddress (.sta 0x8000#16) State.reset = some 0x8000#16 ∧
      (decodeAddress Ref.config 0x8000#16).1 = .ram ∧
      ∃ t, exec (.sta 0x8000#16) State.reset = .next t) ∧
    (storeAddress (.stb 0x7FFF#16) State.reset = some 0x7FFF#16 ∧
      (decodeAddress Ref.config 0x7FFF#16).1 = .rom ∧
      ∃ t, exec (.stb 0x7FFF#16) State.reset = .next t) ∧
    storeAddress .stx State.reset = some 0#16 ∧ ∃ t, exec .stx State.reset = .next t :=
  ⟨rfl, ⟨rfl, rfl, _, rfl⟩, ⟨rfl, rfl, _, rfl⟩, rfl, _, rfl⟩

theorem witness_JumpsFrame : (∀ i ∈ [Instr.jmp 0x40#16, .jnz 0x40#16], jumps i = true) ∧
    (∃ t, exec (.jmp 0x40#16) State.reset = .next t) ∧ ∃ t, exec (.jnz 0x40#16) State.reset = .next t :=
  ⟨by decide, ⟨_, rfl⟩, ⟨_, rfl⟩⟩

theorem witness_StackStoresFrame : State.reset.ram.wf = true ∧
    (∃ t, exec .pushA State.reset = .next t) ∧ ∃ t, exec (.call 0x40#16) State.reset = .next t :=
  ⟨rfl, ⟨_, rfl⟩, ⟨_, rfl⟩⟩

/-- A fault and a halt both happen. -/
theorem witness_OnlyRomStoresFault :
    (∃ t, exec (.sta 0x7FFF#16) State.reset = .next t ∧ t.fault ≠ State.reset.fault) ∧
    ∃ t, exec .hlt State.reset = .next t ∧ State.reset.halted = false ∧ t.halted = true :=
  ⟨⟨_, rfl, by decide⟩, ⟨_, rfl, rfl, rfl⟩⟩

theorem witness_ReturnUndoesCall : ∃ t u : State, State.reset.ram.wf = true ∧
    exec (.call 0x0100#16) State.reset = .next t ∧ u.ram = t.ram ∧ u.sp = t.sp := ⟨_, _, rfl, rfl, rfl, rfl⟩

theorem witness_PopUndoesPush : ∃ t u : State, State.reset.ram.wf = true ∧
    exec .pushA State.reset = .next t ∧ u.ram = t.ram ∧ u.sp = t.sp := ⟨_, _, rfl, rfl, rfl, rfl⟩

/-- Each register has an instruction that does not read it. -/
theorem witness_UnreadRegistersDoNotMatter : (∃ t, exec .ldx State.reset = .next t) ∧
    readsA .ldx = false ∧ readsB .hlt = false ∧ readsSp .ldx = false ∧ readsC .ldx = false ∧
    readsZ .ldx = false := ⟨⟨_, rfl⟩, rfl, rfl, rfl, rfl, rfl⟩

end Sys2Proof.Tests
end

section
/-! PROOFS. What each phase of a pulse leaves of ROM, OPC, IR, HALTED and FAULT, and the statements of 10_state.md
about construction and single pulses. -/
namespace Sys2Proof.Machine

/-! ### The image of a list of bytes -/

/-- The image of a list holds the list's byte at each of its offsets (R166: "byte for byte"). -/
theorem readCell_cellsFrom {bytes : List Byte} {off n : Nat} (hsize : off + bytes.length ≤ imageSize)
    (hn : n < bytes.length) : readCell (Memory.cellsFrom off bytes) (off + n) = bytes[n] := by
  induction bytes generalizing off n with
  | nil => simp at hn
  | cons v rest ih =>
    simp only [List.length_cons] at hsize hn
    have hform : Memory.wfFrom (off + 1) (Memory.cellsFrom (off + 1) rest) = true :=
      cellsFrom_wfFrom (by omega)
    cases n with
    | zero =>
      by_cases hv : v = 0#8
      · simp [Memory.cellsFrom, hv, readCell_eq_zero_of_lt hform (Nat.lt_succ_self off)]
      · simp [Memory.cellsFrom, hv, readCell]
    | succ n =>
      have hrest := ih (off := off + 1) (n := n) (by omega) (by omega)
      rw [show off + 1 + n = off + (n + 1) by omega] at hrest
      by_cases hv : v = 0#8
      · simp [Memory.cellsFrom, hv, hrest]
      · simp [Memory.cellsFrom, hv, readCell, hrest]

/-! ### The decode pulse -/

@[simp] theorem decodePulse_ir (cfg : Config) (s : State) : (decodePulse cfg s).ir = s.ir := by
  unfold decodePulse; split <;> rfl
@[simp] theorem decodePulse_opc (cfg : Config) (s : State) : (decodePulse cfg s).opc = lo8 s.ir := by
  unfold decodePulse; split <;> rfl
@[simp] theorem decodePulse_rom (cfg : Config) (s : State) : (decodePulse cfg s).rom = s.rom := by
  unfold decodePulse; split <;> rfl

/-- A decode pulse halts a machine exactly on an unknown opcode (R86). -/
theorem decodePulse_halted (cfg : Config) (s : State) : (decodePulse cfg s).halted =
    (s.halted || !ControlTable.defined cfg.table (lo8 s.ir)) := by
  unfold decodePulse; split <;> simp [*]

/-- A decode pulse records a fault exactly on an unknown opcode (R86, R148). -/
theorem decodePulse_fault (cfg : Config) (s : State) : (decodePulse cfg s).fault =
    if ControlTable.defined cfg.table (lo8 s.ir) then s.fault
    else some (.unknownOpcode (lo8 s.ir) s.ir) := by
  unfold decodePulse; split <;> rfl

/-! ### The execute pulse -/

@[simp] theorem latchedState_ir (cfg : Config) (w : ControlWord) (s : State) :
    (latchedState cfg w s).ir = if .ir ∈ w.latch then busValue cfg w s else s.ir := by simp [latchedState]
@[simp] theorem latchedState_opc (cfg : Config) (w : ControlWord) (s : State) :
    (latchedState cfg w s).opc = s.opc := by simp [latchedState]
@[simp] theorem latchedState_halted (cfg : Config) (w : ControlWord) (s : State) :
    (latchedState cfg w s).halted = s.halted := by simp [latchedState]
@[simp] theorem latchedState_fault (cfg : Config) (w : ControlWord) (s : State) :
    (latchedState cfg w s).fault = s.fault := by simp [latchedState]
@[simp] theorem latchedState_rom (cfg : Config) (w : ControlWord) (s : State) :
    (latchedState cfg w s).rom = s.rom := by simp [latchedState]

@[simp] theorem executePulse_ir (cfg : Config) (w : ControlWord) (s : State) :
    (executePulse cfg w s).ir = if .ir ∈ w.latch then busValue cfg w s else s.ir := by
  rcases executePulse_cases cfg w s with ⟨_, e⟩ | ⟨_, _, e⟩ | ⟨_, _, e⟩ <;> simp [e]
@[simp] theorem executePulse_opc (cfg : Config) (w : ControlWord) (s : State) :
    (executePulse cfg w s).opc = s.opc := by
  rcases executePulse_cases cfg w s with ⟨_, e⟩ | ⟨_, _, e⟩ | ⟨_, _, e⟩ <;> simp [e]
@[simp] theorem executePulse_rom (cfg : Config) (w : ControlWord) (s : State) :
    (executePulse cfg w s).rom = s.rom := by
  rcases executePulse_cases cfg w s with ⟨_, e⟩ | ⟨_, _, e⟩ | ⟨_, _, e⟩ <;> simp [e]

/-- An execute pulse halts a running machine by `halt` or by a rejected ROM write, and by nothing else (R25). -/
theorem executePulse_halted_iff {cfg : Config} {w : ControlWord} {s : State} (hrun : s.halted = false) :
    (executePulse cfg w s).halted = true ↔
      w.halt = true ∨ (LatchTarget.mem ∈ w.latch ∧ s.mar.toNat < cfg.split.toNat) := by
  rcases executePulse_cases cfg w s with ⟨hmem, e⟩ | ⟨_, hram, e⟩ | ⟨hmem, hrom, e⟩
  · simp [e, advance_halted, hrun, hmem]
  · simp [e, advance_halted, hrun, Nat.not_lt.mpr hram]
  · simp [e, hmem, hrom]

/-- An execute pulse leaves FAULT, but for a rejected ROM write, which records its MAR and its byte and halts
(R100, R149). -/
theorem executePulse_fault_cases (cfg : Config) (w : ControlWord) (s : State) :
    (executePulse cfg w s).fault = s.fault ∨
    (s.mar.toNat < cfg.split.toNat ∧ (executePulse cfg w s).halted = true ∧
      (executePulse cfg w s).fault = some (.illegalWrite s.mar (lo8 (busValue cfg w s)))) := by
  rcases executePulse_cases cfg w s with ⟨_, e⟩ | ⟨_, _, e⟩ | ⟨_, hrom, e⟩
  · exact .inl (by simp [e])
  · exact .inl (by simp [e])
  · exact .inr ⟨hrom, by simp [e], by simp [e]⟩

/-! ### The reference rows -/

/-- A row that a lookup finds stands in the table. -/
theorem exists_mem_of_row? {table : ControlTable} {opc : Byte} {step : Nat} {w : ControlWord}
    (hw : ControlTable.row? table opc step = some w) : ∃ r ∈ table, r.word = w := by
  obtain ⟨r, hr, hword⟩ := Option.map_eq_some_iff.mp hw
  exact ⟨r, List.mem_of_find?_eq_some hr, hword⟩

/-- No row of SIS16-REF latches IR: after the fetch it keeps the opcode byte (R16). -/
theorem Ref.ir_not_latched {opc : Byte} {step : Nat} {w : ControlWord}
    (hw : ControlTable.row? Ref.config.table opc step = some w) : LatchTarget.ir ∉ w.latch := by
  have hrows : ∀ r ∈ Ref.config.table, LatchTarget.ir ∉ r.word.latch := by decide
  obtain ⟨r, hr, rfl⟩ := exists_mem_of_row? hw
  exact hrows r hr

/-! ### What pulses keep, runs of pulses keep -/

/-- A field that no pulse changes is unchanged after any number of pulses. -/
theorem runPulses_keeps {α : Type} {cfg : Config} (field : State → α)
    (hpulse : ∀ s s' : State, pulse cfg s = .next s' → field s' = field s) {n : Nat} {s s' : State}
    (h : runPulses cfg n s = .next s') : field s' = field s := by
  induction n generalizing s with
  | zero => cases h; rfl
  | succ n ih =>
    cases hp : pulse cfg s with
    | next u => rw [runPulses_succ n hp] at h; rw [ih h, hpulse s u hp]
    | fault r => simp [runPulses, hp] at h
    | refused r => simp [runPulses, hp] at h

/-- The pulses to an instruction's end are a run of pulses (R102). -/
theorem exists_runPulses_of_pulsesToBoundary {cfg : Config} {n : Nat} {s s' : State}
    (h : pulsesToBoundary cfg n s = .next s') : ∃ k, runPulses cfg k s = .next s' := by
  induction n generalizing s with
  | zero => exact ⟨0, h⟩
  | succ n ih =>
    cases hp : pulse cfg s with
    | next u =>
      simp only [pulsesToBoundary, hp] at h
      split at h
      · exact ⟨1, by rw [runPulses_succ 0 hp]; exact h⟩
      · obtain ⟨k, hk⟩ := ih h
        exact ⟨k + 1, by rw [runPulses_succ k hp, hk]⟩
    | fault r => simp [pulsesToBoundary, hp] at h
    | refused r => simp [pulsesToBoundary, hp] at h

/-- No pulse changes ROM (R27). -/
theorem pulse_rom {cfg : Config} {s s' : State} (h : pulse cfg s = .next s') : s'.rom = s.rom := by
  obtain ⟨-, ⟨-, rfl⟩ | ⟨-, -, rfl⟩ | ⟨-, -, rfl⟩ | ⟨-, -, w, -, rfl⟩⟩ := pulse_cases h
  · rfl
  · exact fetchPulse_rom cfg s
  · exact decodePulse_rom cfg s
  · exact executePulse_rom cfg w s

/-- Settles O1: the construction state is all zero, and the image of 65,535 bytes reads back byte for byte. -/
theorem constructionYieldsResetState : Obligations.ConstructionYieldsResetState := by
  intro cfg image debug
  refine ⟨fun hill => by simp [State.construct, hill], fun hwell hsize => ?_⟩
  refine ⟨State.ofRom (Memory.ofBytes image), by simp [State.construct, hwell, hsize, imageSize],
    rfl, rfl, rfl, rfl, rfl, rfl, rfl, rfl, rfl, rfl, rfl, rfl, rfl, fun _ => rfl, fun off hoff => ?_⟩
  have hread := readCell_cellsFrom (off := 0) (by simp [hsize, imageSize]) hoff
  rwa [Nat.zero_add] at hread

/-- Settles O19: the decode pulse writes OPC, the other pulses keep it, and the rows of SIS16-REF keep IR. -/
theorem opcIsWrittenByDecodeAlone : Obligations.OpcIsWrittenByDecodeAlone := by
  constructor
  · intro cfg s s' h
    obtain ⟨-, ⟨hhalt, rfl⟩ | ⟨-, hfetch, rfl⟩ | ⟨hrun, hdec, rfl⟩ | ⟨-, hexec, w, -, rfl⟩⟩ := pulse_cases h
    · simp [hhalt]
    · simp [hfetch]
    · simp [hrun, hdec]
    · have hne : s.stepCount ≠ 1#4 := by rintro e; simp [e] at hexec
      simp [hne]
  · intro s s' h hopc hexec'
    obtain ⟨-, ⟨-, rfl⟩ | ⟨-, -, rfl⟩ | ⟨-, -, rfl⟩ | ⟨-, hexec, w, hw, rfl⟩⟩ := pulse_cases h
    · exact hopc hexec'
    · simp at hexec'
    · simp
    · simp [Ref.ir_not_latched hw, hopc hexec]

/-- Settles O20, kind of pulse by kind of pulse: a fetch never halts, a decode on an unknown opcode alone, an
execute pulse by `executePulse_halted_iff`. -/
theorem haltedHasThreeCauses : Obligations.HaltedHasThreeCauses := by
  intro cfg s s' h
  obtain ⟨-, ⟨hhalt, rfl⟩ | ⟨hrun, hfetch, rfl⟩ | ⟨hrun, hdec, rfl⟩ | ⟨hrun, hexec, w, hw, rfl⟩⟩ := pulse_cases h
  · simp [hhalt]
  · simp [hrun, hfetch]
  · simp [decodePulse_halted, hrun, hdec]
  · have hne : s.stepCount ≠ 1#4 := by rintro e; simp [e] at hexec
    simp [executePulse_halted_iff hrun, hrun, hne, hexec, hw]

/-- Settles O21: only the decode of an unknown opcode and a rejected ROM write record a fault, and a halted
machine, which a recorded fault means, keeps its own. -/
theorem faultIsWrittenOnceWithHalt : Obligations.FaultIsWrittenOnceWithHalt := by
  intro cfg s s' h
  constructor
  · intro hnone hsome
    obtain ⟨-, ⟨-, rfl⟩ | ⟨-, -, rfl⟩ | ⟨-, hdec, rfl⟩ | ⟨-, -, w, hw, rfl⟩⟩ := pulse_cases h
    · exact absurd hnone hsome
    · exact absurd hnone hsome
    · cases hdef : ControlTable.defined cfg.table (lo8 s.ir) with
      | true => simp [decodePulse_fault, hdef, hnone] at hsome
      | false => simp [decodePulse_fault, decodePulse_halted, hdef, hdec]
    · rcases executePulse_fault_cases cfg w s with hkept | ⟨hrom, hhalt, hfault⟩
      · exact absurd (hkept.trans hnone) hsome
      · exact ⟨hhalt, .inr ⟨hrom, w, hw, hfault⟩⟩
  · intro hinv hsome
    obtain ⟨hwell, -⟩ := pulse_cases h
    rw [pulse_halted hwell (hinv hsome)] at h
    cases h; rfl

end Sys2Proof.Machine
end

section
/-! PROOFS. What the shared operations of the instructions leave unchanged, said once per operation, and the frame
statements of 10_state.md. -/
namespace Sys2Proof.Machine

/-! ### A store that ends its instruction: RAM, STEP, HALTED and FAULT alone change (R41, R100) -/

@[simp] theorem storeAtMar_finish_a (cfg : Config) (k : BitVec 4) (v : Byte) (s : State) :
    (storeAtMar cfg k v s finish).a = s.a := by
  rcases storeAtMar_cases cfg k v s finish with ⟨_, e⟩ | ⟨_, e⟩ <;> simp [e]
@[simp] theorem storeAtMar_finish_b (cfg : Config) (k : BitVec 4) (v : Byte) (s : State) :
    (storeAtMar cfg k v s finish).b = s.b := by
  rcases storeAtMar_cases cfg k v s finish with ⟨_, e⟩ | ⟨_, e⟩ <;> simp [e]
@[simp] theorem storeAtMar_finish_t (cfg : Config) (k : BitVec 4) (v : Byte) (s : State) :
    (storeAtMar cfg k v s finish).t = s.t := by
  rcases storeAtMar_cases cfg k v s finish with ⟨_, e⟩ | ⟨_, e⟩ <;> simp [e]
@[simp] theorem storeAtMar_finish_sp (cfg : Config) (k : BitVec 4) (v : Byte) (s : State) :
    (storeAtMar cfg k v s finish).sp = s.sp := by
  rcases storeAtMar_cases cfg k v s finish with ⟨_, e⟩ | ⟨_, e⟩ <;> simp [e]
@[simp] theorem storeAtMar_finish_c (cfg : Config) (k : BitVec 4) (v : Byte) (s : State) :
    (storeAtMar cfg k v s finish).c = s.c := by
  rcases storeAtMar_cases cfg k v s finish with ⟨_, e⟩ | ⟨_, e⟩ <;> simp [e]
@[simp] theorem storeAtMar_finish_z (cfg : Config) (k : BitVec 4) (v : Byte) (s : State) :
    (storeAtMar cfg k v s finish).z = s.z := by
  rcases storeAtMar_cases cfg k v s finish with ⟨_, e⟩ | ⟨_, e⟩ <;> simp [e]
@[simp] theorem storeAtMar_finish_ir (cfg : Config) (k : BitVec 4) (v : Byte) (s : State) :
    (storeAtMar cfg k v s finish).ir = s.ir := by
  rcases storeAtMar_cases cfg k v s finish with ⟨_, e⟩ | ⟨_, e⟩ <;> simp [e]
@[simp] theorem storeAtMar_finish_opc (cfg : Config) (k : BitVec 4) (v : Byte) (s : State) :
    (storeAtMar cfg k v s finish).opc = s.opc := by
  rcases storeAtMar_cases cfg k v s finish with ⟨_, e⟩ | ⟨_, e⟩ <;> simp [e]
@[simp] theorem storeAtMar_finish_rom (cfg : Config) (k : BitVec 4) (v : Byte) (s : State) :
    (storeAtMar cfg k v s finish).rom = s.rom := by
  rcases storeAtMar_cases cfg k v s finish with ⟨_, e⟩ | ⟨_, e⟩ <;> simp [e]

/-- Of memory and the error state it changes the byte at MAR alone where MAR selects RAM, and no byte where it
selects ROM (R42, R53). -/
theorem storeAtMar_finish_memory {cfg : Config} {k : BitVec 4} {v : Byte} {s : State}
    (hwf : s.ram.wf = true) :
    (∀ x, x ≠ s.mar → memRead cfg (storeAtMar cfg k v s finish) x = memRead cfg s x) ∧
    ((decodeAddress cfg s.mar).1 = .rom →
      ∀ x, memRead cfg (storeAtMar cfg k v s finish) x = memRead cfg s x) ∧
    ((decodeAddress cfg s.mar).1 = .ram → (storeAtMar cfg k v s finish).halted = s.halted ∧
      (storeAtMar cfg k v s finish).fault = s.fault) := by
  rcases storeAtMar_cases cfg k v s finish with ⟨hram, e⟩ | ⟨hrom, e⟩
  · refine ⟨fun x hx => ?_, by simp [decodeAddress_ram hram], fun _ => by simp [e]⟩
    have hread := memRead_writeCell v hwf hram x
    rw [if_neg hx] at hread
    rw [e, ← hread]
    exact memRead_congr rfl rfl x
  · have hread (x : Word) : memRead cfg (storeAtMar cfg k v s finish) x = memRead cfg s x := by
      rw [e]; exact memRead_congr rfl rfl x
    exact ⟨fun x _ => hread x, fun _ => hread, by simp [decodeAddress_rom hrom]⟩

/-- A store commutes with an update `u` of what the write port neither uses nor changes. -/
theorem storeAtMar_finish_comm {cfg : Config} {k : BitVec 4} {v : Byte} {s : State} (u : State → State)
    (hmar : (u s).mar = s.mar) (hram : (u s).ram = s.ram)
    (hstored : ∀ m, finish { u s with ram := m } = u (finish { s with ram := m }))
    (hfault : ∀ f, takeFault f { u s with stepCount := k } = u (takeFault f { s with stepCount := k })) :
    storeAtMar cfg k v (u s) finish = u (storeAtMar cfg k v s finish) := by
  rcases storeAtMar_cases cfg k v s finish with ⟨hs, e⟩ | ⟨hs, e⟩ <;>
    rcases storeAtMar_cases cfg k v (u s) finish with ⟨hus, e'⟩ | ⟨hus, e'⟩ <;> rw [hmar] at hus
  · rw [e, e', ← hstored]; simp only [hmar, hram]
  · omega
  · omega
  · rw [e, e', ← hfault]; simp only [hmar]

/-! ### A byte stored in the stack window -/

/-- After a store at a stack address every other address reads as before (R46, R53). -/
theorem Ref.memRead_stackStore_other {s : State} {sp : Byte} {x : Word} (v : Byte)
    (hx : x ≠ stackAddress Ref.config sp) :
    memRead Ref.config { s with ram := writeCell s.ram (0x7F00 + sp.toNat) v } x =
      memRead Ref.config s x := by
  have hsp := Ref.stackAddress_toNat sp
  have hne : x.toNat ≠ 0xFF00 + sp.toNat := fun e => hx (BitVec.eq_of_toNat_eq (e.trans hsp.symm))
  by_cases hrom : x.toNat < Ref.config.split.toNat
  · simp [memRead, decodeAddress_rom hrom]
  · have hram := Nat.le_of_not_lt hrom
    simp only [memRead, decodeAddress_ram hram]
    rw [Ref.split_toNat] at hram ⊢
    exact readCell_writeCell_other _ _ (by omega)

/-! ### The frames of the instruction groups -/

/-- An ALU instruction with a destination writes A, C, Z and STEP alone; C takes the ALU's carry (R94, R33). -/
theorem aluToAccumulator_frame {op : AluOp} {s t : State} (h : aluToAccumulator op s = .next t) :
    t.b = s.b ∧ t.sp = s.sp ∧ t.c = (s.aluOut op).carryOut ∧ t.t = s.t ∧ t.mar = s.mar ∧ t.ir = s.ir ∧
    t.opc = s.opc ∧ t.fault = s.fault ∧ t.pc = s.pc ∧ t.halted = s.halted ∧ t.rom = s.rom ∧
    t.ram = s.ram := by
  cases h
  exact ⟨rfl, rfl, rfl, rfl, rfl, rfl, rfl, rfl, rfl, rfl, rfl, rfl⟩

/-- Settles O52, along the columns of R34: what an instruction writes is what its group's claim leaves out. -/
theorem registerInstructionsFrame : Obligations.RegisterInstructionsFrame := by
  intro i s t hi h
  cases i with
  | add | adc | sub | sbc | shl | shr | inc | dec =>
    obtain ⟨hb, hsp, -, ht, hmar, hir, hopc, hfault, hpc, hhalt, hrom, hram⟩ := aluToAccumulator_frame h
    exact ⟨nofun, fun _ => hb, fun _ => hsp, nofun, nofun, ht, hmar, hir, hopc, hfault, hpc,
      fun _ => hhalt, memRead_congr hrom hram⟩
  | and | or | xor | not =>
    obtain ⟨hb, hsp, hc, ht, hmar, hir, hopc, hfault, hpc, hhalt, hrom, hram⟩ := aluToAccumulator_frame h
    exact ⟨nofun, fun _ => hb, fun _ => hsp, fun _ => hc, nofun, ht, hmar, hir, hopc, hfault, hpc,
      fun _ => hhalt, memRead_congr hrom hram⟩
  | cmp =>
    cases h
    exact ⟨fun _ => rfl, fun _ => rfl, fun _ => rfl, nofun, nofun, rfl, rfl, rfl, rfl, rfl, rfl,
      fun _ => rfl, memRead_congr rfl rfl⟩
  | movAB | movASp =>
    cases h
    exact ⟨nofun, fun _ => rfl, fun _ => rfl, fun _ => rfl, fun _ => rfl, rfl, rfl, rfl, rfl, rfl, rfl,
      fun _ => rfl, memRead_congr rfl rfl⟩
  | movBA =>
    cases h
    exact ⟨fun _ => rfl, nofun, fun _ => rfl, fun _ => rfl, fun _ => rfl, rfl, rfl, rfl, rfl, rfl, rfl,
      fun _ => rfl, memRead_congr rfl rfl⟩
  | movSpA =>
    cases h
    exact ⟨fun _ => rfl, fun _ => rfl, nofun, fun _ => rfl, fun _ => rfl, rfl, rfl, rfl, rfl, rfl, rfl,
      fun _ => rfl, memRead_congr rfl rfl⟩
  | nop =>
    cases h
    exact ⟨fun _ => rfl, fun _ => rfl, fun _ => rfl, fun _ => rfl, fun _ => rfl, rfl, rfl, rfl, rfl, rfl,
      rfl, fun _ => rfl, memRead_congr rfl rfl⟩
  | hlt =>
    cases h
    exact ⟨fun _ => rfl, fun _ => rfl, fun _ => rfl, fun _ => rfl, fun _ => rfl, rfl, rfl, rfl, rfl, rfl,
      rfl, fun hne => absurd rfl hne, memRead_congr rfl rfl⟩
  | _ => cases hi

/-- Settles O53: a load names its one destination register in its meaning and leaves both images. -/
theorem loadsFrame : Obligations.LoadsFrame := by
  intro i s t hi h
  cases i with
  | ldiA imm | ldiB imm | lda addr | ldb addr | ldx | ret | popA =>
    cases h
    refine ⟨?_, ?_, ?_, ?_, rfl, rfl, rfl, rfl, rfl, rfl, memRead_congr rfl rfl⟩ <;>
      simp [writesA, writesB, writesT, writesSp]
  | _ => cases hi

/-- Settles O54: each store is one use of the write port, at the operand address or at B. -/
theorem storesFrame : Obligations.StoresFrame := by
  intro i ea s t hea hwf h
  cases i with
  | sta addr | stb addr =>
    cases hea; cases h
    refine ⟨?_, ?_, ?_, ?_, ?_, ?_, ?_, nofun,
      storeAtMar_finish_memory (s := absoluteMode _ s) hwf⟩ <;> simp
  | stx =>
    cases hea; cases h
    refine ⟨?_, ?_, ?_, ?_, ?_, ?_, ?_, fun _ => ?_,
      storeAtMar_finish_memory (s := indirectMode s) hwf⟩ <;> simp
  | _ => cases hea

/-- Settles O55: a jump writes T, MAR, PC and STEP, taken or not (`jumpWhen`). -/
theorem jumpsFrame : Obligations.JumpsFrame := by
  intro i s t hi h
  cases i with
  | jmp addr | jc addr | jnc addr | jz addr | jnz addr =>
    cases h
    exact ⟨rfl, rfl, rfl, rfl, rfl, rfl, rfl, rfl, rfl, memRead_congr rfl rfl⟩
  | _ => cases hi

/-- Settles O56: the stack window is RAM, so the stores never fault, and each leaves every other address. -/
theorem stackStoresFrame : Obligations.StackStoresFrame := by
  constructor
  · intro s t _ h
    cases (execPushA_eq s).symm.trans h
    exact ⟨rfl, rfl, rfl, rfl, rfl, rfl, rfl, rfl, rfl, rfl,
      fun x hx => Ref.memRead_stackStore_other (s := s) _ hx⟩
  · intro target s t _ h
    cases (execCall_eq target s).symm.trans h
    refine ⟨rfl, rfl, rfl, rfl, rfl, rfl, rfl, rfl, fun x hx hx' => ?_⟩
    have hlow : x ≠ stackAddress Ref.config (s.sp - 1#8 - 1#8) := by
      rwa [show s.sp - 1#8 - 1#8 = s.sp - 2#8 by bv_omega]
    exact (Ref.memRead_stackStore_other
      (s := { s with ram := writeCell s.ram (0x7F00 + (s.sp - 1#8).toNat) (hi8 (s.pc + 2#16)) }) _ hlow).trans
      (Ref.memRead_stackStore_other _ hx)

/-! ### ROM -/

/-- No instruction changes ROM (R27, R42). -/
theorem exec_rom {i : Instr} {s t : State} (h : exec i s = .next t) : t.rom = s.rom := by
  cases i with
  | sta addr | stb addr | stx => cases h; exact storeAtMar_finish_rom ..
  | add | adc | sub | sbc | and | or | xor | not | shl | shr | inc | dec =>
    obtain ⟨-, -, -, -, -, -, -, -, -, -, hrom, -⟩ := aluToAccumulator_frame h
    exact hrom
  | pushA => cases (execPushA_eq s).symm.trans h; rfl
  | call target => cases (execCall_eq target s).symm.trans h; rfl
  | _ => cases h; simp

@[simp] theorem afterDecode_rom (cfg : Config) (s : State) : (afterDecode cfg s).rom = s.rom := by
  simp [afterDecode]

/-- No step changes ROM (R27). -/
theorem step_rom {s s' : State} (h : step s = .next s') : s'.rom = s.rom := by
  cases hhalt : s.halted with
  | true => rw [step_halted hhalt] at h; cases h; rfl
  | false =>
    by_cases hfetch : s.stepCount = 0#4
    · cases hdec : decode (bytesAtPc Ref.config s) with
      | ok decoded =>
        rw [step_decoded hhalt hfetch hdec] at h
        simpa using exec_rom h
      | error e =>
        rw [step_unknown hhalt hfetch hdec] at h
        cases h; simp
    · rw [step_within hhalt hfetch] at h
      obtain ⟨k, hk⟩ := exists_runPulses_of_pulsesToBoundary h
      exact runPulses_keeps State.rom (fun _ _ => pulse_rom) hk

/-- Settles O18: every pulse keeps ROM, so every run of pulses does, and so does the step. -/
theorem romNeverChanges : Obligations.RomNeverChanges :=
  ⟨fun _ _ _ _ h => runPulses_keeps State.rom (fun _ _ => pulse_rom) h, fun _ _ h => step_rom h⟩

end Sys2Proof.Machine
end

section
/-! PROOFS. What an instruction does not read does not matter (R34): one lemma per register or flag that is
replaced, and one for the registers that every reader latches first. -/
namespace Sys2Proof.Machine

/-! ### The ALU rows, for every operation -/

/-- B may be replaced where the ALU's outputs do not depend on it. -/
theorem aluToAccumulator_replace_b {op : AluOp} {s t : State} {x : Word}
    (h : aluToAccumulator op s = .next t) (hout : State.aluOut { s with b := x } op = s.aluOut op) :
    aluToAccumulator op { s with b := x } = .next { t with b := x } := by
  cases h
  simp only [aluToAccumulator, hout]; rfl

/-- C may be replaced where the ALU's outputs do not depend on it; the row writes it (R94). -/
theorem aluToAccumulator_replace_c {op : AluOp} {s t : State} {x : Bool}
    (h : aluToAccumulator op s = .next t) (hout : State.aluOut { s with c := x } op = s.aluOut op) :
    aluToAccumulator op { s with c := x } = .next t := by
  cases h
  simp only [aluToAccumulator, hout]; rfl

/-- Z is no input of the ALU, and the row writes it (R94, R95). -/
theorem aluToAccumulator_replace_z {op : AluOp} {s t : State} (x : Bool)
    (h : aluToAccumulator op s = .next t) : aluToAccumulator op { s with z := x } = .next t := by
  cases h; rfl

/-- SP is no input of the ALU (R95). -/
theorem aluToAccumulator_replace_sp {op : AluOp} {s t : State} (x : Byte)
    (h : aluToAccumulator op s = .next t) :
    aluToAccumulator op { s with sp := x } = .next { t with sp := x } := by
  cases h; rfl

/-- MAR, IR, T and OPC are no inputs of the ALU (R95). -/
theorem aluToAccumulator_replace_latches {op : AluOp} {s t : State} (mar ir tt : Word) (opc : Byte)
    (h : aluToAccumulator op s = .next t) :
    aluToAccumulator op { s with mar := mar, ir := ir, t := tt, opc := opc } =
      .next { t with mar := mar, ir := ir, t := tt, opc := opc } := by
  cases h; rfl

/-! ### Every instruction, register by register -/

/-- R34, A read by. -/
theorem exec_replace_a {i : Instr} {s t : State} (h : exec i s = .next t) (hread : readsA i = false)
    (x : Word) : exec i { s with a := x } = .next { t with a := if writesA i then t.a else x } := by
  cases i with
  | sta | stx | movBA | movSpA | add | adc | sub | sbc | and | or | xor | not | shl | shr | inc | dec
  | cmp | pushA => cases hread
  | stb addr =>
    cases h
    exact congrArg Host.Outcome.next (storeAtMar_finish_comm (s := absoluteMode addr s)
      (fun s => { s with a := x }) rfl rfl (fun _ => rfl) fun _ => rfl)
  | call target =>
    cases (execCall_eq target s).symm.trans h
    exact execCall_eq target _
  | _ => cases h; rfl

/-- R34, B read by. -/
theorem exec_replace_b {i : Instr} {s t : State} (h : exec i s = .next t) (hread : readsB i = false)
    (x : Word) : exec i { s with b := x } = .next { t with b := if writesB i then t.b else x } := by
  cases i with
  | stb | ldx | stx | movAB | add | adc | sub | sbc | and | or | xor | cmp => cases hread
  | not | shl | shr | inc | dec => exact aluToAccumulator_replace_b h rfl
  | sta addr =>
    cases h
    exact congrArg Host.Outcome.next (storeAtMar_finish_comm (s := absoluteMode addr s)
      (fun s => { s with b := x }) rfl rfl (fun _ => rfl) fun _ => rfl)
  | pushA =>
    cases (execPushA_eq s).symm.trans h
    exact execPushA_eq _
  | call target =>
    cases (execCall_eq target s).symm.trans h
    exact execCall_eq target _
  | _ => cases h; rfl

/-- R34, SP read by. -/
theorem exec_replace_sp {i : Instr} {s t : State} (h : exec i s = .next t) (hread : readsSp i = false)
    (x : Byte) : exec i { s with sp := x } = .next { t with sp := if writesSp i then t.sp else x } := by
  cases i with
  | movASp | call | ret | pushA | popA => cases hread
  | add | adc | sub | sbc | and | or | xor | not | shl | shr | inc | dec =>
    exact aluToAccumulator_replace_sp x h
  | sta addr | stb addr =>
    cases h
    exact congrArg Host.Outcome.next (storeAtMar_finish_comm (s := absoluteMode addr s)
      (fun s => { s with sp := x }) rfl rfl (fun _ => rfl) fun _ => rfl)
  | stx =>
    cases h
    exact congrArg Host.Outcome.next (storeAtMar_finish_comm (s := indirectMode s)
      (fun s => { s with sp := x }) rfl rfl (fun _ => rfl) fun _ => rfl)
  | _ => cases h; rfl

/-- R34, C read by; the logic instructions pass the replaced C through (R21). -/
theorem exec_replace_c {i : Instr} {s t : State} (h : exec i s = .next t) (hread : readsC i = false)
    (x : Bool) : exec i { s with c := x } = .next { t with c := if writesC i then t.c else x } := by
  cases i with
  | adc | sbc | jc | jnc => cases hread
  | add | sub | shl | shr | inc | dec => exact aluToAccumulator_replace_c h rfl
  | and | or | xor | not => cases h; rfl
  | sta addr | stb addr =>
    cases h
    exact congrArg Host.Outcome.next (storeAtMar_finish_comm (s := absoluteMode addr s)
      (fun s => { s with c := x }) rfl rfl (fun _ => rfl) fun _ => rfl)
  | stx =>
    cases h
    exact congrArg Host.Outcome.next (storeAtMar_finish_comm (s := indirectMode s)
      (fun s => { s with c := x }) rfl rfl (fun _ => rfl) fun _ => rfl)
  | pushA =>
    cases (execPushA_eq s).symm.trans h
    exact execPushA_eq _
  | call target =>
    cases (execCall_eq target s).symm.trans h
    exact execCall_eq target _
  | _ => cases h; rfl

/-- R34, Z read by. -/
theorem exec_replace_z {i : Instr} {s t : State} (h : exec i s = .next t) (hread : readsZ i = false)
    (x : Bool) : exec i { s with z := x } = .next { t with z := if writesZ i then t.z else x } := by
  cases i with
  | jz | jnz => cases hread
  | add | adc | sub | sbc | and | or | xor | not | shl | shr | inc | dec =>
    exact aluToAccumulator_replace_z x h
  | sta addr | stb addr =>
    cases h
    exact congrArg Host.Outcome.next (storeAtMar_finish_comm (s := absoluteMode addr s)
      (fun s => { s with z := x }) rfl rfl (fun _ => rfl) fun _ => rfl)
  | stx =>
    cases h
    exact congrArg Host.Outcome.next (storeAtMar_finish_comm (s := indirectMode s)
      (fun s => { s with z := x }) rfl rfl (fun _ => rfl) fun _ => rfl)
  | pushA =>
    cases (execPushA_eq s).symm.trans h
    exact execPushA_eq _
  | call target =>
    cases (execCall_eq target s).symm.trans h
    exact execCall_eq target _
  | _ => cases h; rfl

/-- No instruction uses the MAR, IR, T or OPC its decode left: each reader of MAR or T latches it first. -/
theorem exec_replace_latches {i : Instr} {s t : State} (h : exec i s = .next t) (mar ir tt : Word)
    (opc : Byte) : exec i { s with mar := mar, ir := ir, t := tt, opc := opc } = .next { t with
      mar := (if writesMar i then t.mar else mar), ir := ir
      t := (if writesT i then t.t else tt), opc := opc } := by
  cases i with
  | add | adc | sub | sbc | and | or | xor | not | shl | shr | inc | dec =>
    exact aluToAccumulator_replace_latches mar ir tt opc h
  | sta addr | stb addr =>
    cases h
    exact congrArg Host.Outcome.next (storeAtMar_finish_comm (s := absoluteMode addr s)
      (fun s => { s with ir := ir, opc := opc }) rfl rfl (fun _ => rfl) fun _ => rfl)
  | stx =>
    cases h
    exact congrArg Host.Outcome.next (storeAtMar_finish_comm (s := indirectMode s)
      (fun s => { s with ir := ir, t := tt, opc := opc }) rfl rfl (fun _ => rfl) fun _ => rfl)
  | pushA =>
    cases (execPushA_eq s).symm.trans h
    exact execPushA_eq _
  | call target =>
    cases (execCall_eq target s).symm.trans h
    exact execCall_eq target _
  | _ => cases h; rfl

/-- Settles O60, one `exec_replace` lemma per clause. -/
theorem unreadRegistersDoNotMatter : Obligations.UnreadRegistersDoNotMatter := fun _ _ _ h =>
  ⟨fun x hread => exec_replace_a h hread x, fun x hread => exec_replace_b h hread x,
    fun x hread => exec_replace_sp h hread x, fun x hread => exec_replace_c h hread x,
    fun x hread => exec_replace_z h hread x, exec_replace_latches h⟩

end Sys2Proof.Machine
end

section
/-! PROOFS. The memory of 20_memory.md: the address map, the stack window, and what an execute pulse does at its
write port. -/
namespace Sys2Proof.Machine

/-! ### The address map -/

/-- Under the constraint of R39 every decoded offset lies inside its image. -/
theorem decodeAddress_offset_lt {cfg : Config} (hsplit : cfg.splitOk = true) (addr : Word) :
    (decodeAddress cfg addr).2 < imageSize := by
  by_cases hrom : addr.toNat < cfg.split.toNat
  · have hmax := cfg.split.isLt
    rw [decodeAddress_rom hrom]; simp only [imageSize]; omega
  · rw [decodeAddress_ram (Nat.le_of_not_lt hrom)]; exact ramOffset_lt hsplit addr

/-- No two addresses select the same byte (R38). -/
theorem decodeAddress_injective (cfg : Config) : Function.Injective (decodeAddress cfg) := by
  intro addr other heq
  refine BitVec.eq_of_toNat_eq ?_
  by_cases ha : addr.toNat < cfg.split.toNat <;> by_cases ho : other.toNat < cfg.split.toNat
  · rw [decodeAddress_rom ha, decodeAddress_rom ho] at heq
    exact congrArg Prod.snd heq
  · rw [decodeAddress_rom ha, decodeAddress_ram (Nat.le_of_not_lt ho)] at heq
    cases congrArg Prod.fst heq
  · rw [decodeAddress_ram (Nat.le_of_not_lt ha), decodeAddress_rom ho] at heq
    cases congrArg Prod.fst heq
  · rw [decodeAddress_ram (Nat.le_of_not_lt ha), decodeAddress_ram (Nat.le_of_not_lt ho)] at heq
    have hoff := congrArg Prod.snd heq
    simp only at hoff; omega

/-- Under the default SPLIT each space has the offsets 0 to 0x7FFF (R39). -/
theorem Ref.decodeAddress_offset_le (addr : Word) : (decodeAddress Ref.config addr).2 ≤ 0x7FFF := by
  by_cases hrom : addr.toNat < Ref.config.split.toNat
  · rw [decodeAddress_rom hrom]
    rw [Ref.split_toNat] at hrom
    simp only; omega
  · have hmax := addr.isLt
    rw [decodeAddress_ram (Nat.le_of_not_lt hrom), Ref.split_toNat]
    simp only; omega

/-- An ill-formed configuration is refused before a state exists, whatever the image (R166). -/
theorem construct_illFormed {cfg : Config} (hill : cfg.wellFormed = false) (image : List Byte) (debug : Bool) :
    State.construct cfg image debug = .refused .illFormedConfig := by simp [State.construct, hill]

/-- Settles O24: the two cases of the address map, their bounds and their injectivity; SPLIT = 0 breaks
`splitOk`. -/
theorem everyAddressIsInsideAnImage : Obligations.EveryAddressIsInsideAnImage := by
  refine ⟨fun cfg addr other hsplit => ⟨decodeAddress_rom, decodeAddress_ram,
      decodeAddress_offset_lt (by simpa [Config.splitOk] using hsplit) addr,
      fun heq => decodeAddress_injective cfg heq⟩,
    Ref.decodeAddress_offset_le, fun cfg image debug hzero => construct_illFormed ?_ image debug⟩
  simp [Config.wellFormed, Config.splitOk, hzero]

/-! ### The stack window -/

/-- The stack address as a number (R47). -/
theorem stackAddress_toNat (cfg : Config) (sp : Byte) :
    (stackAddress cfg sp).toNat = (cfg.stackBase.toNat + sp.toNat) % 2 ^ 16 := by
  simp [stackAddress, zext16]

/-- With STACK_BASE at most 0xFF00 no stack address wraps (R48). -/
theorem stackAddress_toNat_of_le {cfg : Config} (hbase : cfg.stackBase.toNat ≤ 0xFF00) (sp : Byte) :
    (stackAddress cfg sp).toNat = cfg.stackBase.toNat + sp.toNat := by
  have hsp := sp.isLt
  rw [stackAddress_toNat]; omega

/-- Under the constraint of R48 every stack address selects RAM. -/
theorem decodeAddress_stackAddress {cfg : Config} (hsplit : cfg.split.toNat ≤ cfg.stackBase.toNat)
    (hbase : cfg.stackBase.toNat ≤ 0xFF00) (sp : Byte) : decodeAddress cfg (stackAddress cfg sp) =
      (.ram, cfg.stackBase.toNat + sp.toNat - cfg.split.toNat) := by
  have haddr := stackAddress_toNat_of_le hbase sp
  rw [decodeAddress_ram (by omega), haddr]

/-- Settles O25: the sum modulo 2^16 in general, and as a number under R48, whose breach `stackBaseOk` finds. -/
theorem stackWindowIsRam : Obligations.StackWindowIsRam := by
  refine ⟨fun cfg sp => ⟨stackAddress_toNat cfg sp, fun hsplit hbase =>
      ⟨stackAddress_toNat_of_le hbase sp, decodeAddress_stackAddress hsplit hbase sp⟩⟩,
    fun sp => ?_, fun cfg image debug hbroken => construct_illFormed ?_ image debug⟩
  · rw [decodeAddress_stackAddress (cfg := Ref.config) (by decide) (by decide) sp, Ref.split_toNat,
      show Ref.config.stackBase.toNat = 0xFF00 from rfl,
      show 0xFF00 + sp.toNat - 0x8000 = 0x7F00 + sp.toNat by omega]
  · have hbase : cfg.stackBaseOk = false := by simpa [Config.stackBaseOk] using hbroken
    simp [Config.wellFormed, hbase]

/-! ### The write port of an execute pulse -/

@[simp] theorem latchedState_ram (cfg : Config) (w : ControlWord) (s : State) :
    (latchedState cfg w s).ram = s.ram := by simp [latchedState]
@[simp] theorem latchedState_stepCount (cfg : Config) (w : ControlWord) (s : State) :
    (latchedState cfg w s).stepCount = s.stepCount := by simp [latchedState]

/-- A MEM latch while MAR selects ROM (R42, R100). -/
theorem executePulse_romWrite {cfg : Config} {w : ControlWord} {s : State} (hmem : LatchTarget.mem ∈ w.latch)
    (hrom : s.mar.toNat < cfg.split.toNat) : executePulse cfg w s =
      takeFault (.illegalWrite s.mar (lo8 (busValue cfg w s))) (latchedState cfg w s) := by
  rcases executePulse_cases cfg w s with ⟨hno, _⟩ | ⟨_, hram, _⟩ | ⟨_, _, e⟩
  · exact absurd hmem hno
  · omega
  · exact e

/-- A MEM latch while MAR selects RAM (R41). -/
theorem executePulse_ramWrite {cfg : Config} {w : ControlWord} {s : State} (hmem : LatchTarget.mem ∈ w.latch)
    (hram : cfg.split.toNat ≤ s.mar.toNat) : executePulse cfg w s = advance w { latchedState cfg w s with
      ram := writeCell s.ram (s.mar.toNat - cfg.split.toNat) (lo8 (busValue cfg w s)) } := by
  rcases executePulse_cases cfg w s with ⟨hno, _⟩ | ⟨_, _, e⟩ | ⟨_, hrom, _⟩
  · exact absurd hmem hno
  · exact e
  · omega

/-- The row without its MEM latch, and with `halt`: what R100 leaves of a row whose write is rejected. -/
def haltingWithoutMem (w : ControlWord) : ControlWord :=
  { w with latch := w.latch.filter (· != .mem), halt := true }

/-- Every latch target but MEM is latched with or without the MEM latch. -/
theorem mem_haltingWithoutMem_latch {w : ControlWord} {target : LatchTarget} :
    target ∈ (haltingWithoutMem w).latch ↔ target ∈ w.latch ∧ target ≠ .mem := by
  simp [haltingWithoutMem]

/-- The MEM latch and `halt` have no part in the phases that latch registers and update flags. -/
theorem latchedState_haltingWithoutMem (cfg : Config) (w : ControlWord) (s : State) :
    latchedState cfg (haltingWithoutMem w) s = latchedState cfg w s := by
  have hregs (bus : Word) : latchRegisters (haltingWithoutMem w) bus s = latchRegisters w bus s := by
    simp only [latchRegisters, nextPc, nextT, nextSp, mem_haltingWithoutMem_latch, ne_eq, reduceCtorEq,
      not_false_eq_true, and_true]
    rfl
  exact congrArg (flagPhase w s) (hregs (busValue cfg w s))

/-- A row with `halt` and without the MEM latch halts in its latched state, STEP unchanged (R98). -/
theorem executePulse_haltingWithoutMem (cfg : Config) (w : ControlWord) (s : State) :
    executePulse cfg (haltingWithoutMem w) s = { latchedState cfg w s with halted := true } := by
  have hno : LatchTarget.mem ∉ (haltingWithoutMem w).latch := by
    simp [mem_haltingWithoutMem_latch]
  rcases executePulse_cases cfg (haltingWithoutMem w) s with ⟨_, e⟩ | ⟨hmem, _⟩ | ⟨hmem, _⟩
  · rw [e, latchedState_haltingWithoutMem]; rfl
  · exact absurd hmem hno
  · exact absurd hmem hno

/-- But for FAULT, a fault raised in the latched state leaves what the row with `halt` for its MEM latch does. -/
theorem takeFault_latchedState (f : FaultRecord) (cfg : Config) (w : ControlWord) (s : State) :
    takeFault f (latchedState cfg w s) = { executePulse cfg (haltingWithoutMem w) s with fault := some f } := by
  rw [executePulse_haltingWithoutMem]; rfl

/-- Settles O15: the rejected write is a fault in the latched state, `executePulse_romWrite`, which
`takeFault_latchedState` compares with the row without its MEM latch. -/
theorem romWriteIsRejected : Obligations.RomWriteIsRejected := by
  intro cfg s w hcfg hrun hexec hw hmem hrom
  refine ⟨executePulse cfg w s, pulse_execute hcfg hrun hexec hw, executePulse_rom cfg w s, ?_⟩
  rw [executePulse_romWrite hmem hrom]
  exact ⟨latchedState_ram cfg w s, rfl, latchedState_stepCount cfg w s, rfl,
    takeFault_latchedState _ cfg w s⟩

/-- After a RAM write the byte at the old MAR is bus[7:0] and every other address reads as before (R41, R93). -/
theorem memRead_executePulse_ramWrite {cfg : Config} {w : ControlWord} {s : State}
    (hmem : LatchTarget.mem ∈ w.latch) (hram : cfg.split.toNat ≤ s.mar.toNat) (hwf : s.ram.wf = true)
    (x : Word) : memRead cfg (executePulse cfg w s) x =
      if x = s.mar then lo8 (busValue cfg w s) else memRead cfg s x := by
  rw [← memRead_writeCell _ hwf hram]
  exact memRead_congr (by simp) (by simp [executePulse_ramWrite hmem hram]) x

/-- Settles O16: `executePulse_ramWrite` at the RAM offset, `memRead_executePulse_ramWrite` at every address. -/
theorem writePortStoresOneByte : Obligations.WritePortStoresOneByte := by
  intro cfg s w hcfg hrun hexec hw hmem hram hwf
  have hread := memRead_executePulse_ramWrite hmem hram hwf
  refine ⟨executePulse cfg w s, pulse_execute hcfg hrun hexec hw, executePulse_rom cfg w s, ?_,
    by simp [hread], fun x hx => by simp [hread, hx]⟩
  rw [executePulse_ramWrite hmem hram, advance_ram]
  exact readCell_writeCell_same _ _ hwf

/-! ### A pulse that drives and latches MEM -/

/-- The OR of sources, bit by bit (R88). -/
theorem getLsbD_orOfSources (value : DriveSource → Word) (sources : List DriveSource) (k : Nat) :
    (orOfSources value sources).getLsbD k = sources.any fun d => (value d).getLsbD k := by
  induction sources with
  | nil => simp [orOfSources]
  | cons d rest ih => simp [orOfSources, ih]

/-- One driver may be taken out of the OR and put before it, however often the row lists it. -/
theorem any_eq_or_any_filter_ne {sources : List DriveSource} {d : DriveSource} (hd : d ∈ sources)
    (p : DriveSource → Bool) : sources.any p = (p d || (sources.filter (· != d)).any p) := by
  rw [Bool.eq_iff_iff]
  simp only [List.any_eq_true, Bool.or_eq_true, List.mem_filter, bne_iff_ne]
  constructor
  · rintro ⟨e, he, hp⟩
    by_cases hed : e = d
    · exact .inl (hed ▸ hp)
    · exact .inr ⟨e, ⟨he, hed⟩, hp⟩
  · rintro (hp | ⟨e, ⟨he, _⟩, hp⟩)
    · exact ⟨d, hd, hp⟩
    · exact ⟨e, he, hp⟩

/-- The low byte of a bus that MEM drives: the byte at MAR ORed with the other drivers (R55, R88). -/
theorem getLsbD_lo8_busValue_of_mem {cfg : Config} {w : ControlWord} {s : State}
    (hdrive : DriveSource.mem ∈ w.drive) {k : Nat} (hk : k < 8) : (lo8 (busValue cfg w s)).getLsbD k =
      ((memRead cfg s s.mar).getLsbD k ||
        (w.drive.filter (· != .mem)).any fun d => (sourceValue cfg w s d).getLsbD k) := by
  have hmem : (sourceValue cfg w s .mem).getLsbD k = (memRead cfg s s.mar).getLsbD k := by
    rw [sourceValue, getLsbD_zext16, decide_eq_true (by omega), Bool.true_and]
  rw [getLsbD_lo8, decide_eq_true hk, Bool.true_and, busValue, getLsbD_orOfSources,
    any_eq_or_any_filter_ne hdrive, hmem]

/-- Settles O17: the byte stored is bus[7:0] by the write port, and `getLsbD_lo8_busValue_of_mem` says its bits. -/
theorem readAndWriteInOnePulse : Obligations.ReadAndWriteInOnePulse := by
  intro cfg s w hcfg hrun hexec hw hdrive hmem hram hwf
  refine ⟨executePulse cfg w s, pulse_execute hcfg hrun hexec hw, fun k hk => ?_⟩
  rw [memRead_executePulse_ramWrite hmem hram hwf, if_pos rfl, getLsbD_lo8_busValue_of_mem hdrive hk]

end Sys2Proof.Machine
end

section
/-! PROOFS. The encoding of 30_encoding.md: what the decoder can do with an opcode byte, said once
(`decode_cons_cases`), the two round trips, the opcodes of SIS16-REF, an unknown opcode at PC, and words placed there. -/
namespace Sys2Proof.Machine

/-! ### The operand formats (R63) -/

/-- An F1 operand that is read is the first byte left (R64). -/
theorem decodeImm8_eq_ok {make : Byte → Instr} {bytes rest : List Byte} {i : Instr}
    (h : decodeImm8 make bytes = .ok (i, rest)) : ∃ imm, bytes = imm :: rest ∧ i = make imm := by
  cases bytes with
  | nil => cases h
  | cons imm tail => cases h; exact ⟨imm, rfl, rfl⟩

/-- An F2 operand that is read is the first two bytes left, low byte first (R65). -/
theorem decodeAddr16_eq_ok {make : Word → Instr} {bytes rest : List Byte} {i : Instr}
    (h : decodeAddr16 make bytes = .ok (i, rest)) :
    ∃ addr, bytes = lo8 addr :: hi8 addr :: rest ∧ i = make addr := by
  match bytes with
  | [] | [_] => cases h
  | lo :: hi :: tail => cases h; exact ⟨catBytes hi lo, by simp, rfl⟩

/-- The two halves of an address, low byte first, are read back as the address (R65). -/
theorem decodeAddr16_halves (make : Word → Instr) (addr : Word) (rest : List Byte) :
    decodeAddr16 make (lo8 addr :: hi8 addr :: rest) = .ok (make addr, rest) := by
  simp [decodeAddr16]

/-! ### The opcode map (R67, R68) -/

/-- All the decoder can do with an opcode byte: it reads an instruction of one of the three formats, whose encoding
begins with that byte, or it rejects a byte of R68. -/
theorem decode_cons_cases (op : Byte) (rest : List Byte) :
    (∃ i, encode i = [op] ∧ decode (op :: rest) = .ok (i, rest)) ∨
    (∃ make : Byte → Instr, (∀ imm, encode (make imm) = [op, imm]) ∧
      decode (op :: rest) = decodeImm8 make rest) ∨
    (∃ make : Word → Instr, (∀ addr, encode (make addr) = [op, lo8 addr, hi8 addr]) ∧
      decode (op :: rest) = decodeAddr16 make rest) ∨
    (unknownByR68 op = true ∧ decode (op :: rest) = .error (.unknownOpcode op)) := by
  -- The cases are the rows of R67 in order, then every other byte; F1 are rows 2 and 3, F2 rows 4 to 7 and 27 to 32.
  simp only [decode]
  split
  case h_2 h | h_3 h =>
    obtain ⟨-, rfl⟩ := BitVec.toNat_eq_nat.mp h
    exact .inr (.inl ⟨_, fun _ => rfl, rfl⟩)
  case h_4 h | h_5 h | h_6 h | h_7 h | h_27 h | h_28 h | h_29 h | h_30 h | h_31 h | h_32 h =>
    obtain ⟨-, rfl⟩ := BitVec.toNat_eq_nat.mp h
    exact .inr (.inr (.inl ⟨_, fun _ => rfl, rfl⟩))
  case h_37 =>
    have hlt := op.isLt
    refine .inr (.inr (.inr ⟨?_, rfl⟩))
    simp only [unknownByR68, Bool.or_eq_true, Bool.and_eq_true, decide_eq_true_eq]
    simp only [imp_false] at *
    omega
  all_goals
    next h =>
    obtain ⟨-, rfl⟩ := BitVec.toNat_eq_nat.mp h
    exact .inl ⟨_, rfl, rfl⟩

/-- What is decoded was encoded: no byte read is dropped (R63, R69). -/
theorem encode_of_decode {bytes rest : List Byte} {i : Instr} (h : decode bytes = .ok (i, rest)) :
    encode i ++ rest = bytes := by
  cases bytes with
  | nil => cases h
  | cons op tail =>
    rcases decode_cons_cases op tail with ⟨j, henc, e⟩ | ⟨make, henc, e⟩ | ⟨make, henc, e⟩ | ⟨-, e⟩ <;>
      rw [e] at h
    · cases h; simp [henc]
    · obtain ⟨imm, rfl, rfl⟩ := decodeImm8_eq_ok h
      simp [henc]
    · obtain ⟨addr, rfl, rfl⟩ := decodeAddr16_eq_ok h
      simp [henc]
    · cases h

/-- What is encoded is decoded, whatever bytes follow (R63 to R67). -/
theorem decode_encode (i : Instr) (rest : List Byte) : decode (encode i ++ rest) = .ok (i, rest) := by
  cases i with
  | lda addr | ldb addr | sta addr | stb addr | jmp addr | jc addr | jnc addr | jz addr | jnz addr
  | call addr => exact decodeAddr16_halves _ addr rest
  | _ => rfl

/-- The length of an encoding (R63, R66). -/
theorem length_encode (i : Instr) : (encode i).length = lengthOf i := by
  cases i <;> rfl

/-- Settles O29: the round trip from an instruction, by its format. -/
theorem decodeOfEncode : Obligations.DecodeOfEncode :=
  fun i rest _ => ⟨decode_encode i rest, length_encode i⟩

/-- Settles O30: the round trip from bytes, by the formats the decoder reads. -/
theorem encodeOfDecode : Obligations.EncodeOfDecode := fun _ _ _ => encode_of_decode

/-- Bytes decode to instructions of their first byte, leaving the bytes past their length (R66). -/
theorem opcodeOf_and_rest_of_decode {op : Byte} {tail rest : List Byte} {i : Instr}
    (h : decode (op :: tail) = .ok (i, rest)) : opcodeOf i = op ∧ rest = (op :: tail).drop (lengthOf i) := by
  have henc := encode_of_decode h
  exact ⟨(List.cons.inj henc).1, by rw [← henc, ← length_encode, List.drop_left]⟩

/-- With two bytes after it an opcode byte is never truncated: it decodes, or it is one of R68 (R62, R69). -/
theorem decode_three_cases (op x y : Byte) :
    (∃ i rest, decode [op, x, y] = .ok (i, rest)) ∨
    (unknownByR68 op = true ∧ decode [op, x, y] = .error (.unknownOpcode op)) := by
  rcases decode_cons_cases op [x, y] with ⟨i, -, e⟩ | ⟨make, -, e⟩ | ⟨make, -, e⟩ | hunknown
  · exact .inl ⟨i, [x, y], e⟩
  · exact .inl ⟨make x, [y], e⟩
  · exact .inl ⟨make (catBytes y x), [], e⟩
  · exact .inr hunknown

/-! ### The opcodes of SIS16-REF -/

/-- No row of SIS16-REF is of a byte of R68. -/
theorem Ref.undefined_of_unknownByR68 {op : Byte} (h : unknownByR68 op = true) :
    ControlTable.defined Ref.config.table op = false := by
  have hrows : ∀ r ∈ Ref.config.table, unknownByR68 r.opcode = false := by decide
  have hnone : (Ref.config.table.find? fun r => r.opcode == op && r.step == 2) = none := by
    refine List.find?_eq_none.mpr fun r hr hmatch => ?_
    simp only [Bool.and_eq_true, beq_iff_eq] at hmatch
    rw [← hmatch.1, hrows r hr] at h
    cases h
  simp [ControlTable.defined, ControlTable.row?, hnone]

/-- A byte the decoder accepts is none of R68: SIS16-REF has rows for every instruction. -/
theorem known_of_decode {op : Byte} {tail rest : List Byte} {i : Instr} (h : decode (op :: tail) = .ok (i, rest)) :
    unknownByR68 op = false := by
  obtain ⟨rfl, -⟩ := opcodeOf_and_rest_of_decode h
  have hdef := Ref.defined_opcodeOf i
  refine Bool.eq_false_iff.mpr fun hunknown => ?_
  simp [Ref.undefined_of_unknownByR68 hunknown] at hdef

/-- A byte of R68 is rejected by name. -/
theorem decode_unknown {op : Byte} (h : unknownByR68 op = true) (x y : Byte) :
    decode [op, x, y] = .error (.unknownOpcode op) := by
  rcases decode_three_cases op x y with ⟨i, rest, hdec⟩ | ⟨-, hdec⟩
  · rw [known_of_decode hdec] at h; cases h
  · exact hdec

/-- Settles O28: the decoder accepts a byte or finds it in R68; the table defines the opcode of every instruction
and none of R68. -/
theorem decoderAndTableAgree : Obligations.DecoderAndTableAgree := by
  intro op x y
  rcases decode_three_cases op x y with ⟨i, rest, hdec⟩ | ⟨hunknown, hdec⟩
  · obtain ⟨hop, hrest⟩ := opcodeOf_and_rest_of_decode hdec
    have hdef : ControlTable.defined Ref.config.table op = true := hop ▸ Ref.defined_opcodeOf i
    exact ⟨⟨fun _ => ⟨i, hop, hrest ▸ hdec⟩, fun _ => hdef⟩, by simp [hdef, hdec],
      by simp [known_of_decode hdec, hdec]⟩
  · simp [hdec, hunknown, Ref.undefined_of_unknownByR68 hunknown]

/-- Settles O27: the rows are finitely many, and each is checked. -/
theorem referenceTableIsWellFormed : Obligations.ReferenceTableIsWellFormed :=
  ⟨Ref.config_wellFormed, by decide⟩

/-- Settles O31: each word is decoded as written out. -/
theorem knownWordsDecode : Obligations.KnownWordsDecode := by
  unfold Obligations.KnownWordsDecode
  decide

/-! ### An unknown opcode at PC -/

/-- Fetch and decode of an unknown opcode: the decode pulse halts at STEP 1 (R86, R148). -/
theorem afterDecode_unknown {cfg : Config} {s : State}
    (h : ControlTable.defined cfg.table (memRead cfg s s.pc) = false) : afterDecode cfg s = { s with
      mar := s.pc, ir := zext16 (memRead cfg s s.pc), pc := s.pc + 1#16, opc := memRead cfg s s.pc,
      stepCount := 1#4, halted := true,
      fault := some (.unknownOpcode (memRead cfg s s.pc) (zext16 (memRead cfg s s.pc))) } := by
  simp [afterDecode, decodePulse, h, fetchPulse, takeFault]

/-- The first two pulses of an instruction are its fetch and its decode (R84, R85). -/
theorem runPulses_two {cfg : Config} {s : State} (hcfg : cfg.wellFormed = true) (hrun : s.halted = false)
    (hfetch : s.stepCount = 0#4) : runPulses cfg 2 s = .next (afterDecode cfg s) := by
  rw [runPulses_succ 1 (pulse_fetch hcfg hrun hfetch)]
  exact runPulses_succ 0 (pulse_decode hcfg hrun rfl)

/-- Settles O36: the step on a byte the decoder rejects, and two pulses, are the fetch and the decode, which
halts. -/
theorem unknownOpcodeStep : Obligations.UnknownOpcodeStep := by
  refine ⟨fun s hrun hfetch hunknown => ?_, rfl⟩
  have hundefined := Ref.undefined_of_unknownByR68 hunknown
  have hdec : decode (bytesAtPc Ref.config s) = .error (.unknownOpcode (opcodeAt s)) :=
    decode_unknown hunknown _ _
  rw [opcodeAt, ← afterDecode_unknown hundefined]
  exact ⟨step_unknown hrun hfetch hdec, runPulses_two Ref.config_wellFormed hrun hfetch⟩

/-! ### Bytes placed in the images -/

@[simp] theorem placeBytes_pc (cfg : Config) (s : State) (addr : Word) (bytes : List Byte) :
    (placeBytes cfg s addr bytes).pc = s.pc := by
  induction bytes generalizing s addr with
  | nil => rfl
  | cons v rest ih => simp [placeBytes, ih]

/-- Placing bytes leaves every address outside their range as it was. -/
theorem memRead_placeBytes_other {cfg : Config} {s : State} {addr x : Word} {bytes : List Byte}
    (hsplit : cfg.splitOk = true) (hrom : s.rom.wf = true) (hram : s.ram.wf = true)
    (hx : ∀ n < bytes.length, x ≠ addr + BitVec.ofNat 16 n) :
    memRead cfg (placeBytes cfg s addr bytes) x = memRead cfg s x := by
  induction bytes generalizing s addr with
  | nil => rfl
  | cons v rest ih =>
    obtain ⟨hrom', hram'⟩ := placeByte_wf hsplit addr v hrom hram
    have hne : x ≠ addr := by simpa using hx 0 (by simp)
    have hrest : ∀ n < rest.length, x ≠ addr + 1#16 + BitVec.ofNat 16 n := fun n hn => by
      have hsucc := hx (n + 1) (by simpa using hn)
      rwa [BitVec.ofNat_add, BitVec.add_comm (BitVec.ofNat 16 n), ← BitVec.add_assoc] at hsucc
    rw [placeBytes, ih hrom' hram' hrest, memRead_placeByte v hrom hram, if_neg hne]

/-- The bytes placed read back, in whichever images they lie and across the wrap of the addresses (R63). -/
theorem memRead_placeBytes {cfg : Config} {s : State} {addr : Word} {bytes : List Byte} {n : Nat}
    (hsplit : cfg.splitOk = true) (hrom : s.rom.wf = true) (hram : s.ram.wf = true)
    (hlen : bytes.length ≤ 2 ^ 16) (hn : n < bytes.length) :
    memRead cfg (placeBytes cfg s addr bytes) (addr + BitVec.ofNat 16 n) = bytes[n] := by
  induction bytes generalizing s addr n with
  | nil => simp at hn
  | cons v rest ih =>
    simp only [List.length_cons] at hlen hn
    obtain ⟨hrom', hram'⟩ := placeByte_wf hsplit addr v hrom hram
    cases n with
    | zero =>
      have hclear : ∀ k < rest.length, addr + BitVec.ofNat 16 0 ≠ addr + 1#16 + BitVec.ofNat 16 k := by
        intro k hk heq
        have hnum := congrArg BitVec.toNat heq
        simp only [BitVec.toNat_add, BitVec.toNat_ofNat] at hnum
        omega
      rw [placeBytes, memRead_placeBytes_other hsplit hrom' hram' hclear, memRead_placeByte v hrom hram]
      simp
    | succ n =>
      have hread := ih (addr := addr + 1#16) (n := n) hrom' hram' (by omega) (by omega)
      rw [BitVec.add_assoc, BitVec.add_comm 1#16, ← BitVec.ofNat_add] at hread
      exact hread

/-- A word placed at PC is the bytes at PC. -/
theorem bytesAtPc_withFetchWord {s : State} (nbits w : Nat) (hrom : s.rom.wf = true) (hram : s.ram.wf = true) :
    bytesAtPc Ref.config (s.withFetchWord nbits w) = tableWordBytes nbits w := by
  have hpc : (s.withFetchWord nbits w).pc = s.pc := placeBytes_pc ..
  have hread (n : Nat) (hn : n < 3) : memRead Ref.config (s.withFetchWord nbits w) (s.pc + BitVec.ofNat 16 n) =
      (tableWordBytes nbits w)[n]'hn :=
    (memRead_congr rfl rfl _).trans
      (memRead_placeBytes (bytes := tableWordBytes nbits w) (by decide) hrom hram (by simp [tableWordBytes]) hn)
  have hread0 := hread 0 (by decide)
  rw [BitVec.add_zero] at hread0
  rw [bytesAtPc, hpc, hread0, hread 1 (by decide), hread 2 (by decide)]
  rfl

/-- A table word that stands for an instruction decodes to it. -/
theorem decode_of_decodeTableWord {nbits w : Nat} {i : Instr} (h : decodeTableWord nbits w = some i) :
    ∃ rest, decode (tableWordBytes nbits w) = .ok (i, rest) := by
  unfold decodeTableWord at h
  split at h
  · next j rest hdec => cases h; exact ⟨rest, hdec⟩
  · cases h

/-- Settles O37: the bytes placed at PC are the bytes the next step decodes. -/
theorem fetchWordRunsItsInstruction : Obligations.FetchWordRunsItsInstruction := by
  intro s nbits w hrom hram
  have hbytes := bytesAtPc_withFetchWord nbits w hrom hram
  refine ⟨hbytes, fun i hword => ?_⟩
  obtain ⟨rest, hdec⟩ := decode_of_decodeTableWord hword
  exact step_decoded rfl rfl (hbytes ▸ hdec)

end Sys2Proof.Machine
end

section
/-! PROOFS. The pulse of 40_datapath.md: what an execute pulse leaves in each field, the values on the bus, the ALU's
operations, and the statements about the five phases. -/
namespace Sys2Proof.Machine

/-! ### The fetch, the decode and the halted machine (R83 to R86) -/

/-- The decode of a defined opcode goes to its first row (R85). -/
theorem decodePulse_defined {cfg : Config} {s : State} (h : ControlTable.defined cfg.table (lo8 s.ir) = true) :
    decodePulse cfg s = { s with opc := lo8 s.ir, stepCount := 2#4 } := by simp [decodePulse, h]

/-- The decode of an unknown opcode halts, STEP kept (R86). -/
theorem decodePulse_unknown {cfg : Config} {s : State} (h : ControlTable.defined cfg.table (lo8 s.ir) = false) :
    decodePulse cfg s = takeFault (.unknownOpcode (lo8 s.ir) s.ir) { s with opc := lo8 s.ir } := by
  simp [decodePulse, h]

/-- A halted machine stays as it is for any number of pulses (R83). -/
theorem runPulses_halted {cfg : Config} {s : State} (hcfg : cfg.wellFormed = true) (hhalt : s.halted = true)
    (n : Nat) : runPulses cfg n s = .next s := by
  induction n with
  | zero => rfl
  | succ n ih => rw [runPulses_succ n (pulse_halted hcfg hhalt), ih]

/-- Settles O4: by `runPulses_halted`, and the step's own case of a halted machine. -/
theorem haltedMachineIsFrozen : Obligations.HaltedMachineIsFrozen :=
  fun _ _ hcfg hhalt => ⟨runPulses_halted hcfg hhalt, step_halted hhalt⟩

/-- Settles O5: the pulse at STEP 0 is the fetch. -/
theorem fetchLaw : Obligations.FetchLaw := fun _ _ hcfg hrun hfetch => pulse_fetch hcfg hrun hfetch

/-- Settles O6: the pulse at STEP 1 is the decode, on a defined opcode. -/
theorem decodeSelectsOpcode : Obligations.DecodeSelectsOpcode := fun _ _ hcfg hrun hdec hdef => by
  rw [pulse_decode hcfg hrun hdec, decodePulse_defined hdef]

/-- Settles O7: the pulse at STEP 1 is the decode, on an unknown opcode, whose fault leaves STEP. -/
theorem unknownOpcodeHaltsAtDecode : Obligations.UnknownOpcodeHaltsAtDecode := fun _ _ hcfg hrun hdec hundef => by
  rw [pulse_decode hcfg hrun hdec, decodePulse_unknown hundef, takeFault]

/-! ### The bus and its sources (R88, R89) -/

/-- Zero extension keeps the number (R8). -/
theorem toNat_zext16 (b : Byte) : (zext16 b).toNat = b.toNat := by
  have hb := b.isLt
  simp only [zext16, BitVec.toNat_setWidth]; omega

/-- The high byte as a number (R8). -/
theorem toNat_hi8 (v : Word) : (hi8 v).toNat = v.toNat / 2 ^ 8 := by
  have hv := v.isLt
  simp only [hi8, BitVec.extractLsb'_toNat, Nat.shiftRight_eq_div_pow]; omega

/-- Settles O8: the OR bit by bit, and its two small cases. -/
theorem busIsOrOfDrivers : Obligations.BusIsOrOfDrivers := by
  intro cfg w s
  refine ⟨getLsbD_orOfSources _ _, fun hnone => ?_, fun d e htwo => ?_⟩
  · simp [busValue, hnone, orOfSources]
  · simp [busValue, htwo, orOfSources]

/-- Settles O9: a register source is the register; a byte source is zero-extended. -/
theorem driveSourceValues : Obligations.DriveSourceValues := by
  intro cfg w s
  refine ⟨rfl, rfl, rfl, rfl, rfl, rfl, toNat_zext16 _, stackAddress_toNat cfg s.sp, ?_, toNat_zext16 _,
    fun op hop => ?_⟩
  · rw [sourceValue, toNat_zext16, toNat_hi8]
  · simp [sourceValue, aluDrive, hop, State.aluOut]

/-! ### The fields after an execute pulse -/

/-- A field that the memory write and the sequencer leave alone has its latched value after an execute pulse. -/
theorem executePulse_eq_latchedState {α : Type} (field : State → α)
    (hadvance : ∀ w t, field (advance w t) = field t) (hfault : ∀ f t, field (takeFault f t) = field t)
    (hram : ∀ (t : State) m, field { t with ram := m } = field t) (cfg : Config) (w : ControlWord) (s : State) :
    field (executePulse cfg w s) = field (latchedState cfg w s) := by
  rcases executePulse_cases cfg w s with ⟨_, e⟩ | ⟨_, _, e⟩ | ⟨_, _, e⟩
  · rw [e, hadvance]
  · rw [e, hadvance, hram]
  · rw [e, hfault]

@[simp] theorem executePulse_pc (cfg : Config) (w : ControlWord) (s : State) :
    (executePulse cfg w s).pc = nextPc w (busValue cfg w s) s := by
  rw [executePulse_eq_latchedState State.pc advance_pc takeFault_pc fun _ _ => rfl]; simp [latchedState]
@[simp] theorem executePulse_mar (cfg : Config) (w : ControlWord) (s : State) :
    (executePulse cfg w s).mar = if .mar ∈ w.latch then busValue cfg w s else s.mar := by
  rw [executePulse_eq_latchedState State.mar advance_mar takeFault_mar fun _ _ => rfl]; simp [latchedState]
@[simp] theorem executePulse_a (cfg : Config) (w : ControlWord) (s : State) :
    (executePulse cfg w s).a = if .a ∈ w.latch then busValue cfg w s else s.a := by
  rw [executePulse_eq_latchedState State.a advance_a takeFault_a fun _ _ => rfl]; simp [latchedState]
@[simp] theorem executePulse_b (cfg : Config) (w : ControlWord) (s : State) :
    (executePulse cfg w s).b = if .b ∈ w.latch then busValue cfg w s else s.b := by
  rw [executePulse_eq_latchedState State.b advance_b takeFault_b fun _ _ => rfl]; simp [latchedState]
@[simp] theorem executePulse_t (cfg : Config) (w : ControlWord) (s : State) :
    (executePulse cfg w s).t = nextT w (busValue cfg w s) s := by
  rw [executePulse_eq_latchedState State.t advance_t takeFault_t fun _ _ => rfl]; simp [latchedState]
@[simp] theorem executePulse_sp (cfg : Config) (w : ControlWord) (s : State) :
    (executePulse cfg w s).sp = nextSp w (busValue cfg w s) s := by
  rw [executePulse_eq_latchedState State.sp advance_sp takeFault_sp fun _ _ => rfl]; simp [latchedState]
@[simp] theorem executePulse_c (cfg : Config) (w : ControlWord) (s : State) :
    (executePulse cfg w s).c = (latchedState cfg w s).c :=
  executePulse_eq_latchedState State.c advance_c takeFault_c (fun _ _ => rfl) cfg w s
@[simp] theorem executePulse_z (cfg : Config) (w : ControlWord) (s : State) :
    (executePulse cfg w s).z = (latchedState cfg w s).z :=
  executePulse_eq_latchedState State.z advance_z takeFault_z (fun _ _ => rfl) cfg w s

/-- Phases 3 and 4 of an ALU-tagged pulse (R94). -/
theorem latchedState_tagged {w : ControlWord} {op : AluOp} (h : w.aluOp = some op) (cfg : Config) (s : State) :
    latchedState cfg w s = (latchRegisters w (busValue cfg w s) s).withFlags (s.aluOut op) :=
  flagPhase_tagged s _ h

/-- Phases 3 and 4 of any other pulse: the latches alone (R94). -/
theorem latchedState_untagged {w : ControlWord} (h : w.aluOp = none) (cfg : Config) (s : State) :
    latchedState cfg w s = latchRegisters w (busValue cfg w s) s :=
  flagPhase_untagged s _ h

/-- A row whose memory write, if any, selects RAM goes on to the sequencer, whatever RAM then holds (R41, R98). -/
theorem executePulse_accepted {cfg : Config} {w : ControlWord} {s : State}
    (h : LatchTarget.mem ∉ w.latch ∨ cfg.split.toNat ≤ s.mar.toNat) :
    ∃ m, executePulse cfg w s = advance w { latchedState cfg w s with ram := m } := by
  rcases executePulse_cases cfg w s with ⟨_, e⟩ | ⟨_, _, e⟩ | ⟨hmem, hrom, _⟩
  · exact ⟨(latchedState cfg w s).ram, e⟩
  · exact ⟨_, e⟩
  · rcases h with hno | hram
    · exact absurd hmem hno
    · omega

/-! ### Phase 3 (R90 to R92) -/

/-- The condition gate, condition by condition (R91). -/
theorem condHolds_iff {cond : Cond} {c z : Bool} : condHolds cond c z = true ↔
    cond = .always ∨ (cond = .c ∧ c = true) ∨ (cond = .nc ∧ c = false) ∨ (cond = .z ∧ z = true) ∨
      (cond = .nz ∧ z = false) := by
  cases cond <;> simp [condHolds]

/-- In a well-formed row a counter that counts has no latch or other counter beside it (R82 items 6 and 7). -/
theorem counters_exclusive {w : ControlWord} (h : w.wellFormed = true) :
    (w.pcInc = true → LatchTarget.pc ∉ w.latch) ∧
    (w.spInc = true → LatchTarget.sp ∉ w.latch) ∧
    (w.spDec = true → LatchTarget.sp ∉ w.latch ∧ w.spInc = false) := by
  simp only [ControlWord.wellFormed, Bool.and_eq_true] at h
  obtain ⟨⟨-, hpc⟩, hsp⟩ := h
  refine ⟨fun hinc hlatch => ?_, fun hinc hlatch => ?_, fun hdec => ⟨fun hlatch => ?_, ?_⟩⟩
  · simp [ControlWord.pcOk, hinc, hlatch] at hpc
  · simp [ControlWord.spOk, hinc, hlatch] at hsp
  · simp [ControlWord.spOk, hdec, hlatch] at hsp
  · simp [ControlWord.spOk, hdec] at hsp; exact hsp.2

/-- T's halves where the whole word is not latched: each is bus[7:0] or as before (R90). -/
theorem halves_nextT {w : ControlWord} (h : LatchTarget.t ∉ w.latch) (bus : Word) (s : State) :
    lo8 (nextT w bus s) = (if LatchTarget.tl ∈ w.latch then lo8 bus else lo8 s.t) ∧
    hi8 (nextT w bus s) = (if LatchTarget.th ∈ w.latch then lo8 bus else hi8 s.t) := by
  by_cases hlow : LatchTarget.tl ∈ w.latch <;> by_cases hhigh : LatchTarget.th ∈ w.latch <;>
    simp [nextT, h, hlow, hhigh]

/-- Every byte after an execute pulse: bus[7:0] at the old MAR where a row stores in RAM, else as before (R41, R42). -/
theorem memRead_executePulse {cfg : Config} {w : ControlWord} {s : State} (hwf : s.ram.wf = true) (x : Word) :
    memRead cfg (executePulse cfg w s) x =
      if LatchTarget.mem ∈ w.latch ∧ cfg.split.toNat ≤ s.mar.toNat ∧ x = s.mar then lo8 (busValue cfg w s)
      else memRead cfg s x := by
  rcases executePulse_cases cfg w s with ⟨hno, e⟩ | ⟨hmem, hram, -⟩ | ⟨-, hrom, e⟩
  · rw [if_neg (fun h => hno h.1)]; exact memRead_congr (by simp) (by simp [e]) x
  · rw [memRead_executePulse_ramWrite hmem hram hwf]; simp [hmem, hram]
  · rw [if_neg (fun h => absurd h.2.1 (Nat.not_le.mpr hrom))]; exact memRead_congr (by simp) (by simp [e]) x

/-- Settles O10: each field by its own lemma; `counters_exclusive` says that a counter counts from the old value. -/
theorem latchesCaptureTheBus : Obligations.LatchesCaptureTheBus := by
  intro cfg s w hcfg hrun hexec hw hwf
  obtain ⟨hpcInc, hspInc, hspDec⟩ := counters_exclusive (row?_wellFormed hcfg hw)
  refine ⟨executePulse cfg w s, pulse_execute hcfg hrun hexec hw, fun hlatch => ?_, fun hinc => ?_,
    fun hno hinc => ?_, executePulse_mar .., executePulse_ir .., executePulse_a .., executePulse_b ..,
    fun hlatch => ?_, fun hno => ?_, fun hlatch => ?_, fun hinc => ?_, fun hdec => ?_, fun hno hinc hdec => ?_,
    executePulse_opc .., memRead_executePulse hwf⟩
  · rw [executePulse_pc, nextPc, if_pos hlatch]
    exact if_congr condHolds_iff rfl rfl
  · simp [nextPc, hpcInc hinc, hinc]
  · simp [nextPc, hno, hinc]
  · simp [nextT, hlatch]
  · rw [executePulse_t]; exact halves_nextT hno _ s
  · simp [nextSp, hlatch]
  · simp [nextSp, hspInc hinc, hinc]
  · obtain ⟨hno, hinc⟩ := hspDec hdec
    simp [nextSp, hno, hinc, hdec, BitVec.toNat_sub, Nat.add_comm]
  · simp [nextSp, hno, hinc, hdec]

/-! ### Phases 4 and 5 (R94 to R98) -/

/-- Settles O11: the flags of the latched state, which no later phase changes. -/
theorem flagsFollowTheAluResult : Obligations.FlagsFollowTheAluResult := by
  intro cfg s w hcfg hrun hexec hw
  refine ⟨executePulse cfg w s, pulse_execute hcfg hrun hexec hw, fun op hop => ?_, fun hnone => ?_⟩
  · simp [latchedState_tagged hop, State.aluOut]
  · simp [latchedState_untagged hnone]

/-- Settles O13: of the kinds of pulse only an ALU-tagged execute pulse writes a flag. -/
theorem flagIdempotence : Obligations.FlagIdempotence := by
  intro cfg s s' h huntagged
  obtain ⟨-, ⟨-, rfl⟩ | ⟨-, -, rfl⟩ | ⟨-, -, rfl⟩ | ⟨hrun, hexec, w, hw, rfl⟩⟩ := pulse_cases h
  · exact ⟨rfl, rfl⟩
  · exact ⟨rfl, rfl⟩
  · unfold decodePulse; split <;> exact ⟨rfl, rfl⟩
  · have hnone := huntagged w hrun hexec hw
    simp [latchedState_untagged hnone]

/-- Settles O14: without an IllegalWrite the pulse ends in the sequencer, `executePulse_accepted`. -/
theorem sequencerAdvance : Obligations.SequencerAdvance := by
  intro cfg s w hcfg hrun hexec hw haccepted
  obtain ⟨m, e⟩ := executePulse_accepted haccepted
  refine ⟨executePulse cfg w s, pulse_execute hcfg hrun hexec hw, ?_⟩
  rw [e]
  refine ⟨by simp, by simp [advance_halted, hrun], fun hhalt => ?_, fun hhalt hlast => ?_, fun hhalt hlast => ?_⟩
  · simp [advance_stepCount, hhalt]
  · simp [advance_stepCount, hhalt, hlast]
  · simp [advance_stepCount, hhalt, hlast]

/-! ### The ALU (R96) -/

/-- Settles O12, operation by operation: results and carries are compared as numbers, and `hcompl` turns the sum of a
subtraction (R96: A, the complement of B, and the carry in) into a difference. -/
theorem aluOperations : Obligations.AluOperations := by
  intro a b cin
  have ha := a.isLt
  have hb := b.isLt
  have hcompl : (~~~b).toNat = 0xFFFF - b.toNat := BitVec.toNat_not
  have heq (x : Word) : a = x ↔ a.toNat = x.toNat := BitVec.toNat_inj.symm
  refine ⟨⟨?add, rfl⟩, ⟨rfl, rfl⟩, ⟨?sub, ?subCarry⟩, ⟨?sbc, ?sbcCarry⟩, ⟨rfl, rfl⟩, ⟨rfl, rfl⟩, ⟨rfl, rfl⟩,
    ⟨BitVec.toNat_not, rfl⟩, ⟨?shl, rfl⟩, ⟨?shr, ?shrCarry⟩, ⟨?inc, ?incCarry⟩, ⟨?dec, ?decCarry⟩⟩
  case add => simp only [alu, aluOfSum]; bv_omega
  case sub => simp only [alu, aluOfSum, hcompl]; bv_omega
  case subCarry => simp only [alu, aluOfSum, hcompl]; exact decide_eq_decide.mpr (by omega)
  case sbc => simp only [alu, aluOfSum, hcompl, BitVec.toNat_ofNat]; congr 1; omega
  case sbcCarry => simp only [alu, aluOfSum, hcompl]; exact decide_eq_decide.mpr (by omega)
  case shl => exact BitVec.eq_of_toNat_eq (by simp [alu, Nat.shiftLeft_eq, Nat.mul_comm])
  case shr => exact BitVec.eq_of_toNat_eq (by simp [alu, Nat.shiftRight_eq_div_pow]; omega)
  case shrCarry => simp [alu, BitVec.getLsbD, Nat.testBit_zero]
  case inc => simp only [alu, aluOfSum]; bv_omega
  case incCarry => simp only [alu, aluOfSum]; exact decide_eq_decide.mpr (by rw [heq]; simp; omega)
  case dec => simp only [alu, aluOfSum]; bv_omega
  case decCarry => simp only [alu, aluOfSum]; exact decide_eq_decide.mpr (by rw [ne_eq, heq]; simp; omega)

end Sys2Proof.Machine
end

section
/-! PROOFS. The invariant `State.Sound`: every kind of pulse keeps it, and an execute pulse halts, returns to fetch or
goes to a step that has its row (R106, R108). -/
namespace Sys2Proof.Machine

/-! ### The rows of a well-formed table (R82) -/

/-- The rows of an opcode, step by step: a row stands at the steps 2..k, the last of them alone marked so. -/
theorem rowsAre_iff {table : ControlTable} {opc : Byte} {k : Nat} : ControlTable.rowsAre table opc k = true ↔
    ∀ n < 16, (∀ w, ControlTable.row? table opc n = some w → 2 ≤ n ∧ n ≤ k ∧ w.isLast = decide (n = k)) ∧
      (ControlTable.row? table opc n = none → n < 2 ∨ k < n) := by
  simp only [ControlTable.rowsAre, List.all_eq_true, List.mem_range]
  refine forall₂_congr fun n _ => ?_
  cases ControlTable.row? table opc n <;> simp [and_assoc]

/-- Under a well-formed configuration the rows of a defined opcode end at a step of the counter (R82 item 2). -/
theorem exists_rowsAre {cfg : Config} {opc : Byte} (hcfg : cfg.wellFormed = true)
    (hdef : ControlTable.defined cfg.table opc = true) : ∃ k < 16, ControlTable.rowsAre cfg.table opc k = true := by
  simp only [Config.wellFormed, ControlTable.wellFormed, ControlTable.terminates, Bool.and_eq_true,
    List.all_eq_true] at hcfg
  obtain ⟨-, ⟨⟨-, hends⟩, -⟩, -⟩ := hcfg
  obtain ⟨w, hw⟩ := Option.isSome_iff_exists.mp hdef
  obtain ⟨r, hr, -⟩ := Option.map_eq_some_iff.mp hw
  have hrow := List.find?_some hr
  simp only [Bool.and_eq_true, beq_iff_eq] at hrow
  obtain ⟨rfl, hstep⟩ := hrow
  have hend := hends r (List.mem_of_find?_eq_some hr)
  simp only [hstep, bne_self_eq_false, Bool.false_or, List.any_eq_true, List.mem_range, Bool.and_eq_true] at hend
  obtain ⟨k, hk, -, hrows⟩ := hend
  exact ⟨k, hk, hrows⟩

/-- After a row that is not the last stands another one, within the counter's range (R82 item 2, R108). -/
theorem row?_succ_of_not_isLast {cfg : Config} {opc : Byte} {n : Nat} {w : ControlWord}
    (hcfg : cfg.wellFormed = true) (hdef : ControlTable.defined cfg.table opc = true) (hn : n < 16)
    (hw : ControlTable.row? cfg.table opc n = some w) (hlast : w.isLast = false) :
    n + 1 < 16 ∧ (ControlTable.row? cfg.table opc (n + 1)).isSome = true := by
  obtain ⟨k, hk, hrows⟩ := exists_rowsAre hcfg hdef
  rw [rowsAre_iff] at hrows
  obtain ⟨htwo, hle, hend⟩ := (hrows n hn).1 w hw
  have hne : n ≠ k := fun heq => by simp [hend, heq] at hlast
  refine ⟨by omega, Option.isSome_iff_ne_none.mpr fun hnone => ?_⟩
  have hout := (hrows (n + 1) (by omega)).2 hnone
  omega

/-! ### Where an execute pulse leaves the sequencer and RAM -/

/-- An execute pulse halts with STEP kept, returns to fetch, or goes on to the next step of a row that is not the
last (R98, R100). -/
theorem executePulse_stepCount_cases (cfg : Config) (w : ControlWord) (s : State) :
    ((executePulse cfg w s).halted = true ∧ (executePulse cfg w s).stepCount = s.stepCount) ∨
    (executePulse cfg w s).stepCount = 0#4 ∨
    (w.isLast = false ∧ (executePulse cfg w s).stepCount = s.stepCount + 1#4) := by
  by_cases haccepted : LatchTarget.mem ∉ w.latch ∨ cfg.split.toNat ≤ s.mar.toNat
  · obtain ⟨m, e⟩ := executePulse_accepted haccepted
    rw [e]
    cases hhalt : w.halt with
    | true => exact .inl ⟨by simp [advance_halted, hhalt], by simp [advance_stepCount, hhalt]⟩
    | false =>
      cases hlast : w.isLast with
      | true => exact .inr (.inl (by simp [advance_stepCount, hhalt, hlast]))
      | false => exact .inr (.inr ⟨rfl, by simp [advance_stepCount, hhalt, hlast]⟩)
  · rw [not_or, not_not, Nat.not_le] at haccepted
    obtain ⟨hmem, hrom⟩ := haccepted
    rw [executePulse_romWrite hmem hrom]
    exact .inl ⟨rfl, latchedState_stepCount cfg w s⟩

/-- An execute pulse leaves RAM or writes one byte that an address selects (R41, R42). -/
theorem executePulse_ram_cases (cfg : Config) (w : ControlWord) (s : State) :
    (executePulse cfg w s).ram = s.ram ∨
    (cfg.split.toNat ≤ s.mar.toNat ∧ (executePulse cfg w s).ram =
      writeCell s.ram (s.mar.toNat - cfg.split.toNat) (lo8 (busValue cfg w s))) := by
  rcases executePulse_cases cfg w s with ⟨-, e⟩ | ⟨-, hram, e⟩ | ⟨-, -, e⟩
  · exact .inl (by simp [e])
  · exact .inr ⟨hram, by simp [e]⟩
  · exact .inl (by simp [e])

/-! ### Every kind of pulse keeps a sound state sound -/

/-- A sound machine that runs has no fault (R26). -/
theorem State.Sound.fault_eq_none {cfg : Config} {s : State} (h : s.Sound cfg) (hrun : s.halted = false) :
    s.fault = none := by
  by_contra hfault
  simp [h.faultHalts hfault] at hrun

theorem fetchPulse_sound {cfg : Config} {s : State} (h : s.Sound cfg) : (fetchPulse cfg s).Sound cfg where
  romForm := h.romForm
  ramForm := h.ramForm
  ramReach := h.ramReach
  faultHalts := h.faultHalts
  faultOrigin := h.faultOrigin
  irExtended _ := hi8_zext16 _
  rowExists hexec := absurd hexec (by simp)

theorem decodePulse_sound {cfg : Config} {s : State} (h : s.Sound cfg) (hdec : s.stepCount = 1#4) :
    (decodePulse cfg s).Sound cfg := by
  cases hdef : ControlTable.defined cfg.table (lo8 s.ir) with
  | true =>
    rw [decodePulse_defined hdef]
    exact { h with
      irExtended := fun hone => absurd hone (by simp)
      rowExists := fun _ => ⟨hdef, hdef⟩ }
  | false =>
    rw [decodePulse_unknown hdef]
    exact { h with
      faultHalts := fun _ => rfl
      faultOrigin := by simp [faultSound, hdef]
      rowExists := fun hexec => absurd hexec (by simp [hdec]) }

theorem executePulse_sound {cfg : Config} {w : ControlWord} {s : State} (h : s.Sound cfg)
    (hcfg : cfg.wellFormed = true) (hrun : s.halted = false) (hexec : 2 ≤ s.stepCount.toNat)
    (hw : ControlTable.row? cfg.table s.opc s.stepCount.toNat = some w) : (executePulse cfg w s).Sound cfg := by
  obtain ⟨hdef, hrow⟩ := h.rowExists hexec
  have hsplit : cfg.splitOk = true := by
    simp only [Config.wellFormed, Bool.and_eq_true] at hcfg
    exact hcfg.1.1
  have hmar := s.mar.isLt
  have hstep := s.stepCount.isLt
  refine ⟨?romForm, ?ramForm, ?ramReach, ?faultHalts, ?faultOrigin, ?irExtended, ?rowExists⟩
  case romForm => rw [executePulse_rom]; exact h.romForm
  case ramForm =>
    rcases executePulse_ram_cases cfg w s with e | ⟨-, e⟩ <;> rw [e]
    · exact h.ramForm
    · exact writeCell_wf _ h.ramForm (ramOffset_lt hsplit s.mar)
  case ramReach =>
    rcases executePulse_ram_cases cfg w s with e | ⟨hram, e⟩ <;> rw [e]
    · exact h.ramReach
    · intro cell hcell
      rcases mem_writeCell hcell with hold | hnew
      · exact h.ramReach cell hold
      · omega
  case faultHalts =>
    intro hfault
    rcases executePulse_fault_cases cfg w s with hkept | ⟨-, hhalt, -⟩
    · exact absurd (hkept.trans (h.fault_eq_none hrun)) hfault
    · exact hhalt
  case faultOrigin =>
    rcases executePulse_fault_cases cfg w s with hkept | ⟨hrom, -, hfault⟩
    · rw [hkept]; exact h.faultOrigin
    · rw [hfault]; exact decide_eq_true hrom
  case irExtended =>
    intro hone
    rcases executePulse_stepCount_cases cfg w s with ⟨-, e⟩ | e | ⟨-, e⟩ <;> rw [e] at hone
    · simp [hone] at hexec
    · cases hone
    · bv_omega
  case rowExists =>
    intro hexec'
    rw [executePulse_opc]
    refine ⟨hdef, ?_⟩
    rcases executePulse_stepCount_cases cfg w s with ⟨-, e⟩ | e | ⟨hlast, e⟩ <;> rw [e] at hexec' ⊢
    · exact hrow
    · cases hexec'
    · obtain ⟨hlt, hsome⟩ := row?_succ_of_not_isLast hcfg hdef hstep hw hlast
      rwa [show (s.stepCount + 1#4).toNat = s.stepCount.toNat + 1 by simp; omega]

/-- From a sound state under a well-formed configuration a pulse answers a sound state (R106, R108). -/
theorem exists_pulse_sound {cfg : Config} {s : State} (hcfg : cfg.wellFormed = true) (h : s.Sound cfg) :
    ∃ s', pulse cfg s = .next s' ∧ s'.Sound cfg := by
  cases hrun : s.halted with
  | true => exact ⟨s, pulse_halted hcfg hrun, h⟩
  | false =>
    by_cases hfetch : s.stepCount = 0#4
    · exact ⟨_, pulse_fetch hcfg hrun hfetch, fetchPulse_sound h⟩
    by_cases hdec : s.stepCount = 1#4
    · exact ⟨_, pulse_decode hcfg hrun hdec, decodePulse_sound h hdec⟩
    have hexec : 2 ≤ s.stepCount.toNat := by bv_omega
    obtain ⟨-, hrow⟩ := h.rowExists hexec
    obtain ⟨w, hw⟩ := Option.isSome_iff_exists.mp hrow
    exact ⟨_, pulse_execute hcfg hrun hexec hw, executePulse_sound h hcfg hrun hexec hw⟩

/-- Settles O22: `exists_pulse_sound`, and the refusal of an ill-formed configuration. -/
theorem pulseKeepsSoundState : Obligations.PulseKeepsSoundState :=
  fun _ s => ⟨exists_pulse_sound, fun hill => pulse_illFormed hill s⟩

end Sys2Proof.Machine
end

section
/-! PROOFS. What the rows of SIS16-REF do, row form by row form, and that the rows of an instruction have the effect
that `exec` gives it. -/
namespace Sys2Proof.Machine

/-! ### One execute pulse, by the form of its row -/

/-- The bus with one driver is its value (R88). -/
theorem busValue_singleton {cfg : Config} {w : ControlWord} {d : DriveSource} (h : w.drive = [d]) (s : State) :
    busValue cfg w s = sourceValue cfg w s d := by simp [busValue, h, orOfSources]

/-- A row without a memory write latches, updates the flags and goes on to the sequencer. -/
theorem executePulse_of_not_mem {w : ControlWord} (h : LatchTarget.mem ∉ w.latch) (cfg : Config) (s : State) :
    executePulse cfg w s = advance w (latchedState cfg w s) := by
  rcases executePulse_cases cfg w s with ⟨-, e⟩ | ⟨hmem, -⟩ | ⟨hmem, -⟩
  · exact e
  · exact absurd hmem h
  · exact absurd hmem h

/-- A row without a memory write and without an ALU operation: its latches and its place in the sequence alone. -/
theorem executePulse_plain {w : ControlWord} (hmem : LatchTarget.mem ∉ w.latch) (halu : w.aluOp = none)
    (cfg : Config) (s : State) :
    executePulse cfg w s = advance w (latchRegisters w (busValue cfg w s) s) := by
  rw [executePulse_of_not_mem hmem, latchedState_untagged halu]

/-- The row that puts the address of an operand byte in MAR (R72). -/
theorem executePulse_pcToMar (cfg : Config) (s : State) :
    executePulse cfg Ref.pcToMar s = { s with mar := s.pc, stepCount := s.stepCount + 1#4 } := by
  rw [executePulse_plain (by decide) rfl, busValue_singleton rfl]; rfl

/-- The row that puts the stack address in MAR (R47). -/
theorem executePulse_spaToMar (cfg : Config) (s : State) : executePulse cfg Ref.spaToMar s =
    { s with mar := stackAddress cfg s.sp, stepCount := s.stepCount + 1#4 } := by
  rw [executePulse_plain (by decide) rfl, busValue_singleton rfl]; rfl

/-- The row that puts the effective address in MAR (R111). -/
theorem executePulse_tToMar (cfg : Config) (s : State) :
    executePulse cfg Ref.tToMar s = { s with mar := s.t, stepCount := s.stepCount + 1#4 } := by
  rw [executePulse_plain (by decide) rfl, busValue_singleton rfl]; rfl

/-- The row that puts B in MAR (R115). -/
theorem executePulse_bToMar (cfg : Config) (s : State) : executePulse cfg { drive := [.b], latch := [.mar] } s =
    { s with mar := s.b, stepCount := s.stepCount + 1#4 } := by
  rw [executePulse_plain (by decide) rfl, busValue_singleton rfl]; rfl

/-- A last row that moves a value into a register latches it and returns to fetch (R90, R98). -/
theorem executePulse_lastMove {d : DriveSource} {target : LatchTarget} (h : target ≠ .mem) (cfg : Config)
    (s : State) : executePulse cfg (Ref.lastMove d target) s =
      finish (latchRegisters (Ref.lastMove d target) (sourceValue cfg (Ref.lastMove d target) s d) s) := by
  rw [executePulse_plain (by simpa [Ref.lastMove] using h.symm) rfl, busValue_singleton rfl]
  rfl

/-- A last row that stores a byte is the write port at its step (R41, R42, R100). -/
theorem executePulse_lastStore (d : DriveSource) (cfg : Config) (s : State) :
    executePulse cfg (Ref.lastMove d .mem) s =
      storeAtMar cfg s.stepCount (lo8 (sourceValue cfg (Ref.lastMove d .mem) s d)) s finish := by
  rw [← busValue_singleton (w := Ref.lastMove d .mem) rfl]
  rfl

/-- An ALU row sets A and both flags (R94, R121 to R132). -/
theorem executePulse_aluToA (op : AluOp) (cfg : Config) (s : State) : executePulse cfg (Ref.aluToA op) s =
    finish ({ s with a := (s.aluOut op).result }.withFlags (s.aluOut op)) := by
  rw [executePulse_of_not_mem (by simp [Ref.aluToA]), latchedState_tagged rfl, busValue_singleton rfl]
  rfl

/-- The last row of a jump is its condition gate (R91, R135). -/
theorem executePulse_lastJump (cond : Cond) (cfg : Config) (s : State) : executePulse cfg (Ref.lastJump cond) s =
    finish { s with pc := if condHolds cond s.c s.z then s.t else s.pc } := by
  rw [executePulse_plain (by simp [Ref.lastJump]) rfl, busValue_singleton rfl]
  rfl

/-- After `SPA / MAR` MAR holds a stack address, which is one of RAM (R47, R48). -/
theorem Ref.toNat_mar_spaToMar (s : State) :
    (executePulse Ref.config Ref.spaToMar s).mar.toNat = 0xFF00 + s.sp.toNat := by
  rw [executePulse_spaToMar, Ref.stackAddress_toNat]

/-- A row that stores after `SPA / MAR` stores in the stack window, at offset 0x7F00 + SP (R46, R48). -/
theorem Ref.executePulse_stackStore {w : ControlWord} (hmem : LatchTarget.mem ∈ w.latch) (s : State) :
    executePulse Ref.config w (executePulse Ref.config Ref.spaToMar s) =
      advance w { latchedState Ref.config w (executePulse Ref.config Ref.spaToMar s) with
        ram := writeCell s.ram (0x7F00 + s.sp.toNat)
          (lo8 (busValue Ref.config w (executePulse Ref.config Ref.spaToMar s))) } := by
  have hmar := Ref.toNat_mar_spaToMar s
  rw [executePulse_ramWrite hmem (by rw [hmar, Ref.split_toNat]; omega), hmar, Ref.split_toNat,
    show 0xFF00 + s.sp.toNat - 0x8000 = 0x7F00 + s.sp.toNat by omega, executePulse_spaToMar]

/-! ### The rows of an instruction, one after another -/

/-- The state after a list of rows, each an execute pulse (R87). -/
def runRows (cfg : Config) (words : List ControlWord) (s : State) : State :=
  words.foldl (fun t w => executePulse cfg w t) s

@[simp] theorem runRows_nil (cfg : Config) (s : State) : runRows cfg [] s = s := rfl
@[simp] theorem runRows_cons (cfg : Config) (w : ControlWord) (rest : List ControlWord) (s : State) :
    runRows cfg (w :: rest) s = runRows cfg rest (executePulse cfg w s) := rfl
@[simp] theorem runRows_append (cfg : Config) (words rest : List ControlWord) (s : State) :
    runRows cfg (words ++ rest) s = runRows cfg rest (runRows cfg words s) := List.foldl_append

/-- A byte read where both images are the same is the same byte. -/
theorem memRead_of_images {cfg : Config} {s : State} {x : Word} {v : Byte} (h : memRead cfg s x = v) (t : State)
    (hrom : t.rom = s.rom) (hram : t.ram = s.ram) : memRead cfg t x = v :=
  (memRead_congr hrom hram x).trans h

/-- The operand rows leave T, MAR and PC as `readAddr16` does with the address at PC (R65, R111). -/
theorem runRows_operandRows {cfg : Config} {s : State} {addr : Word} (hlo : memRead cfg s s.pc = lo8 addr)
    (hhi : memRead cfg s (s.pc + 1#16) = hi8 addr) : runRows cfg Ref.operandRows s =
      { readAddr16 addr s with stepCount := s.stepCount + 4#4 } := by
  simp [Ref.operandRows, executePulse_pcToMar, executePulse_plain, busValue, orOfSources, sourceValue,
    latchRegisters, nextPc, nextSp, nextT, advance, memRead_of_images hlo, memRead_of_images hhi, BitVec.add_assoc]

/-- A store that ends its instruction does not use STEP. -/
theorem storeAtMar_finish_stepCount (cfg : Config) (k j : BitVec 4) (v : Byte) (s : State) :
    storeAtMar cfg k v { s with stepCount := j } finish = storeAtMar cfg k v s finish := by
  rcases storeAtMar_cases cfg k v s finish with ⟨h, e⟩ | ⟨h, e⟩ <;>
    rcases storeAtMar_cases cfg k v { s with stepCount := j } finish with ⟨h', e'⟩ | ⟨h', e'⟩ <;>
    simp only at h'
  · rw [e, e']; rfl
  · omega
  · omega
  · rw [e, e']

/-- The rows of an instruction, run from the state its decode leaves, are its `exec` (R12): an F2 instruction's rows
read the operand first, a store is the write port at its step, and the stores of PUSH A and CALL land in the stack
window. -/
theorem exec_eq_runRows {i : Instr} {s : State} {rest : List Byte} (hstep : s.stepCount = 2#4)
    (hbytes : operandBytes i ++ rest = [memRead Ref.config s s.pc, memRead Ref.config s (s.pc + 1#16)]) :
    exec i s = .next (runRows Ref.config (Ref.wordsOf i) s) := by
  cases i with
  | nop | hlt | cmp => rfl
  | add | adc | sub | sbc | and | or | xor | not | shl | shr | inc | dec =>
    exact congrArg Host.Outcome.next (executePulse_aluToA _ Ref.config s).symm
  | movAB | movBA | movASp | movSpA =>
    simp only [Ref.wordsOf, Ref.movAB, Ref.movBA, Ref.movASp, Ref.movSpA, runRows_cons, runRows_nil]
    rw [executePulse_lastMove (by decide)]
    rfl
  | ldiA imm | ldiB imm =>
    obtain ⟨rfl, -⟩ : imm = _ ∧ _ := by simpa [operandBytes] using hbytes
    simp only [Ref.wordsOf, Ref.ldiA, Ref.ldiB, runRows_cons, runRows_nil, executePulse_pcToMar]
    rw [executePulse_plain (by decide) rfl, busValue_singleton rfl]
    rfl
  | lda addr | ldb addr =>
    obtain ⟨hlo, hhi, -⟩ : lo8 addr = _ ∧ hi8 addr = _ ∧ _ := by simpa [operandBytes] using hbytes
    simp only [Ref.wordsOf, Ref.lda, Ref.ldb, runRows_append, runRows_cons, runRows_nil,
      runRows_operandRows hlo.symm hhi.symm, executePulse_tToMar]
    rw [executePulse_lastMove (by decide)]
    rfl
  | sta addr | stb addr =>
    obtain ⟨hlo, hhi, -⟩ : lo8 addr = _ ∧ hi8 addr = _ ∧ _ := by simpa [operandBytes] using hbytes
    simp only [Ref.wordsOf, Ref.sta, Ref.stb, runRows_append, runRows_cons, runRows_nil,
      runRows_operandRows hlo.symm hhi.symm, executePulse_tToMar, executePulse_lastStore, hstep]
    exact congrArg Host.Outcome.next (storeAtMar_finish_stepCount ..).symm
  | ldx =>
    simp only [Ref.wordsOf, Ref.ldx, runRows_cons, runRows_nil, executePulse_bToMar]
    rw [executePulse_lastMove (by decide)]
    rfl
  | stx =>
    simp only [Ref.wordsOf, Ref.stx, runRows_cons, runRows_nil, executePulse_bToMar, executePulse_lastStore, hstep]
    exact congrArg Host.Outcome.next (storeAtMar_finish_stepCount ..).symm
  | jmp addr | jc addr | jnc addr | jz addr | jnz addr =>
    obtain ⟨hlo, hhi, -⟩ : lo8 addr = _ ∧ hi8 addr = _ ∧ _ := by simpa [operandBytes] using hbytes
    simp only [Ref.wordsOf, Ref.jmp, Ref.jc, Ref.jnc, Ref.jz, Ref.jnz, runRows_append, runRows_cons, runRows_nil,
      runRows_operandRows hlo.symm hhi.symm, executePulse_lastJump]
    rfl
  | call target =>
    obtain ⟨hlo, hhi, -⟩ : lo8 target = _ ∧ hi8 target = _ ∧ _ := by simpa [operandBytes] using hbytes
    rw [exec, execCall_eq]
    simp only [Ref.wordsOf, Ref.call, runRows_cons, runRows_nil, Ref.executePulse_stackStore, List.mem_singleton,
      executePulse_lastJump]
    simp [executePulse_pcToMar, executePulse_spaToMar, executePulse_plain, latchedState_untagged, busValue,
      orOfSources, sourceValue, latchRegisters, nextPc, nextSp, nextT, advance, condHolds,
      memRead_of_images hlo.symm, memRead_of_images hhi.symm, BitVec.add_assoc]
    rfl
  | ret =>
    simp [exec, execRet, Ref.wordsOf, Ref.ret, executePulse_lastJump, executePulse_spaToMar, executePulse_plain,
      busValue, orOfSources, sourceValue, latchRegisters, nextPc, nextSp, nextT, advance]
    rfl
  | pushA =>
    rw [exec, execPushA_eq]
    simp only [Ref.wordsOf, Ref.pushA, runRows_cons, runRows_nil]
    rw [Ref.executePulse_stackStore (by decide), latchedState_untagged rfl, busValue_singleton rfl,
      executePulse_spaToMar, executePulse_plain (by decide) rfl]
    rfl
  | popA =>
    simp only [Ref.wordsOf, Ref.popA, runRows_cons, runRows_nil, executePulse_spaToMar]
    rw [executePulse_plain (by decide) rfl, busValue_singleton rfl]
    rfl

end Sys2Proof.Machine
end

section
/-! PROOFS. The step of a whole instruction and the pulses of the engine: an instruction's step is the pulses that
R175 counts (R102), a step of a running machine is pulses to the boundary, and it keeps a sound state sound. -/
namespace Sys2Proof.Machine

/-! ### The instruction at PC after its fetch and decode (R84, R85) -/

/-- The bytes that decode to an instruction are its encoding: its opcode at PC, then its operand. -/
theorem bytesAtPc_decoded {s : State} {i : Instr} {rest : List Byte}
    (hdec : decode (bytesAtPc Ref.config s) = .ok (i, rest)) : opcodeOf i = memRead Ref.config s s.pc ∧
      operandBytes i ++ rest = [memRead Ref.config s (s.pc + 1#16), memRead Ref.config s (s.pc + 2#16)] :=
  List.cons.inj (encode_of_decode hdec)

/-- After fetch and decode of an instruction: MAR the old PC, IR and OPC its opcode, PC past it, STEP 2. -/
theorem afterDecode_decoded {s : State} {i : Instr} {rest : List Byte}
    (hdec : decode (bytesAtPc Ref.config s) = .ok (i, rest)) : afterDecode Ref.config s = { s with
      mar := s.pc, ir := zext16 (opcodeOf i), pc := s.pc + 1#16, opc := opcodeOf i, stepCount := 2#4 } := by
  obtain ⟨hop, -⟩ := bytesAtPc_decoded hdec
  have hdef := Ref.defined_opcodeOf i
  rw [hop] at hdef ⊢
  rw [afterDecode, decodePulse_defined (by simpa using hdef)]
  simp [fetchPulse]

/-- Settles O32: the step's own case of a decoded instruction, from the state `afterDecode_decoded` writes out. -/
theorem stepRunsDecodedInstruction : Obligations.StepRunsDecodedInstruction := fun _ _ _ hrun hfetch hdec => by
  rw [step_decoded hrun hfetch hdec, afterDecode_decoded hdec]

/-! ### The pulses of an instruction -/

/-- The rows before the last neither halt nor return to fetch, and store only in the pulse after `SPA / MAR`: what
lets an instruction reach its last row. `afterSpa` says whether that row came just before. -/
def Ref.innerRowsGoOn : Bool → List ControlWord → Bool
  | _, [] => true
  | _, [_] => true
  | afterSpa, w :: next :: rest =>
    !w.halt && !w.isLast && (!w.latch.contains .mem || afterSpa) &&
      Ref.innerRowsGoOn (w == Ref.spaToMar) (next :: rest)

/-- Of the rows that store, CALL's alone are not last, and each comes after `SPA / MAR` (R140). -/
theorem Ref.innerRowsGoOn_wordsOf (i : Instr) : Ref.innerRowsGoOn false (Ref.wordsOf i) = true := by
  cases i <;> rfl

/-- R175 counts the fetch, the decode and the rows. -/
theorem Ref.length_wordsOf (i : Instr) : pulsesByR175 i = (Ref.wordsOf i).length + 2 := by
  cases i <;> rfl

/-- CALL is the longest instruction (R175). -/
theorem pulsesByR175_le (i : Instr) : pulsesByR175 i ≤ 11 := by
  cases i <;> simp [pulsesByR175]

/-- A row that neither halts, ends its instruction nor stores in ROM leaves the machine running at the next step. -/
theorem executePulse_goesOn {cfg : Config} {w : ControlWord} {s : State} (hrun : s.halted = false)
    (hhalt : w.halt = false) (hlast : w.isLast = false)
    (haccepted : LatchTarget.mem ∉ w.latch ∨ cfg.split.toNat ≤ s.mar.toNat) :
    (executePulse cfg w s).halted = false ∧ (executePulse cfg w s).stepCount = s.stepCount + 1#4 := by
  obtain ⟨m, e⟩ := executePulse_accepted haccepted
  rw [e]
  exact ⟨by simp [advance_halted, hhalt, hrun], by simp [advance_stepCount, hhalt, hlast]⟩

/-- Pulses of a running machine whose next rows are `words` run these rows one by one, and before the last one the
machine still runs (R87, R98). -/
theorem Ref.runPulses_rows {words : List ControlWord} {s : State} {afterSpa : Bool} {k : Nat}
    (hrun : s.halted = false) (hexec : 2 ≤ s.stepCount.toNat)
    (hrows : ∀ n < words.length, ControlTable.row? Ref.config.table s.opc (s.stepCount.toNat + n) = words[n]?)
    (hlen : s.stepCount.toNat + words.length ≤ 16) (hgo : Ref.innerRowsGoOn afterSpa words = true)
    (hmar : afterSpa = true → Ref.config.split.toNat ≤ s.mar.toNat) (hk : k ≤ words.length) :
    runPulses Ref.config k s = .next (runRows Ref.config (words.take k) s) ∧
      (k < words.length → (runRows Ref.config (words.take k) s).halted = false ∧
        (runRows Ref.config (words.take k) s).stepCount.toNat = s.stepCount.toNat + k) := by
  induction words generalizing s afterSpa k with
  | nil =>
    obtain rfl : k = 0 := by simpa using hk
    exact ⟨rfl, fun h => absurd h (by simp)⟩
  | cons w rest ih =>
    cases k with
    | zero => exact ⟨rfl, fun _ => ⟨hrun, rfl⟩⟩
    | succ k =>
      simp only [List.length_cons] at hrows hlen hk ⊢
      have hw : ControlTable.row? Ref.config.table s.opc s.stepCount.toNat = some w := hrows 0 (by omega)
      rw [runPulses_succ k (pulse_execute Ref.config_wellFormed hrun hexec hw), List.take_succ_cons, runRows_cons]
      cases rest with
      | nil =>
        obtain rfl : k = 0 := by simpa using hk
        exact ⟨rfl, fun h => absurd h (by simp)⟩
      | cons next rest =>
        simp only [Ref.innerRowsGoOn, Bool.and_eq_true, Bool.not_eq_true', Bool.or_eq_true] at hgo
        obtain ⟨⟨⟨hhalt, hlast⟩, hstore⟩, hgo⟩ := hgo
        obtain ⟨hrun', hstep'⟩ := executePulse_goesOn (cfg := Ref.config) hrun hhalt hlast
          (hstore.imp (by simp) hmar)
        have hnum : (executePulse Ref.config w s).stepCount.toNat = s.stepCount.toNat + 1 := by
          rw [hstep']; simp only [List.length_cons] at hlen; simp; omega
        have hmar' : (w == Ref.spaToMar) = true →
            Ref.config.split.toNat ≤ (executePulse Ref.config w s).mar.toNat := by
          intro hspa
          rw [beq_iff_eq.mp hspa, Ref.toNat_mar_spaToMar, Ref.split_toNat]; omega
        have hrows' : ∀ n < (next :: rest).length, ControlTable.row? Ref.config.table
            (executePulse Ref.config w s).opc ((executePulse Ref.config w s).stepCount.toNat + n) =
              (next :: rest)[n]? := by
          intro n hn
          rw [executePulse_opc, hnum, Nat.add_assoc, Nat.add_comm 1 n]
          exact hrows (n + 1) (by omega)
        obtain ⟨hpulses, hrunning⟩ := ih hrun' (by omega) hrows' (by omega) hgo hmar' (by omega : k ≤ _)
        refine ⟨hpulses, fun hlt => ?_⟩
        obtain ⟨hrunning, hcount⟩ := hrunning (by omega)
        exact ⟨hrunning, by omega⟩

/-- The state after the fetch, the decode and the first `k` rows of an instruction. -/
def Ref.afterRows (i : Instr) (k : Nat) (s : State) : State :=
  runRows Ref.config ((Ref.wordsOf i).take k) (afterDecode Ref.config s)

/-- The pulses of an instruction: fetch, decode, then its rows; before the last row the machine still runs, in the
step that counts its pulses (R72, R87, R175). -/
theorem Ref.runPulses_instruction {s : State} {i : Instr} {rest : List Byte} {k : Nat} (hrun : s.halted = false)
    (hfetch : s.stepCount = 0#4) (hdec : decode (bytesAtPc Ref.config s) = .ok (i, rest))
    (hk : k ≤ (Ref.wordsOf i).length) : runPulses Ref.config (k + 2) s = .next (Ref.afterRows i k s) ∧
      (k < (Ref.wordsOf i).length →
        (Ref.afterRows i k s).halted = false ∧ (Ref.afterRows i k s).stepCount.toNat = k + 2) := by
  have hlen := pulsesByR175_le i
  have hd := afterDecode_decoded hdec
  rw [Ref.length_wordsOf] at hlen
  rw [runPulses_succ (k + 1) (pulse_fetch Ref.config_wellFormed hrun hfetch),
    runPulses_succ k (pulse_decode (s := fetchPulse Ref.config s) Ref.config_wellFormed hrun rfl)]
  obtain ⟨hpulses, hrunning⟩ := Ref.runPulses_rows (s := afterDecode Ref.config s) (afterSpa := false)
    (by rw [hd]; exact hrun) (by rw [hd]; exact le_rfl)
    (fun n hn => by rw [hd, ← Ref.row?_opcodeOf i n (by omega), Nat.add_comm n]; rfl)
    (by rw [hd]; simp; omega) (Ref.innerRowsGoOn_wordsOf i) nofun hk
  refine ⟨hpulses, fun hlt => ?_⟩
  obtain ⟨hrunning, hcount⟩ := hrunning hlt
  exact ⟨hrunning, by rw [Ref.afterRows, hcount, hd, Nat.add_comm]; rfl⟩

/-- The step of an instruction is all its rows from the state after decode. -/
theorem step_eq_afterRows {s : State} {i : Instr} {rest : List Byte} (hrun : s.halted = false)
    (hfetch : s.stepCount = 0#4) (hdec : decode (bytesAtPc Ref.config s) = .ok (i, rest)) :
    step s = .next (Ref.afterRows i (Ref.wordsOf i).length s) := by
  have hd := afterDecode_decoded hdec
  obtain ⟨-, hoperand⟩ := bytesAtPc_decoded hdec
  have hbytes : operandBytes i ++ rest = [memRead Ref.config (afterDecode Ref.config s) (afterDecode Ref.config s).pc,
      memRead Ref.config (afterDecode Ref.config s) ((afterDecode Ref.config s).pc + 1#16)] := by
    rw [hoperand, hd, BitVec.add_assoc]; rfl
  rw [step_decoded hrun hfetch hdec, exec_eq_runRows (by rw [hd]) hbytes, Ref.afterRows, List.take_length]

/-- Settles O33: both the step and the pulses are the rows from the state after decode. -/
theorem stepEqualsItsPulses : Obligations.StepEqualsItsPulses := by
  intro s i rest hrun hfetch hdec
  rw [Ref.length_wordsOf]
  refine ⟨?_, fun n hpos hlt => ?_⟩
  · obtain ⟨hpulses, -⟩ := Ref.runPulses_instruction hrun hfetch hdec le_rfl
    rw [hpulses, step_eq_afterRows hrun hfetch hdec]
  · match n with
    | 1 =>
      exact ⟨fetchPulse Ref.config s, runPulses_succ 0 (pulse_fetch Ref.config_wellFormed hrun hfetch), hrun, rfl⟩
    | k + 2 =>
      have hk : k < (Ref.wordsOf i).length := by omega
      obtain ⟨hpulses, hrunning⟩ := Ref.runPulses_instruction hrun hfetch hdec hk.le
      exact ⟨_, hpulses, hrunning hk⟩

/-! ### Pulses to the boundary (R102) -/

/-- Pulses that reach a boundary, and not before, are the pulses to the boundary. -/
theorem pulsesToBoundary_of_runPulses {cfg : Config} {n m : Nat} {s t : State} (hn : 0 < n) (hnm : n ≤ m)
    (hpulses : runPulses cfg n s = .next t) (hend : t.atBoundary = true)
    (hwithin : ∀ k, 0 < k → k < n → ∃ u, runPulses cfg k s = .next u ∧ u.atBoundary = false) :
    pulsesToBoundary cfg m s = .next t := by
  induction n generalizing s m with
  | zero => omega
  | succ n ih =>
    obtain ⟨m, rfl⟩ : ∃ j, m = j + 1 := ⟨m - 1, by omega⟩
    cases hp : pulse cfg s with
    | fault r => simp [runPulses, hp] at hpulses
    | refused r => simp [runPulses, hp] at hpulses
    | next u =>
      rw [runPulses_succ n hp] at hpulses
      simp only [pulsesToBoundary, hp]
      cases n with
      | zero => cases hpulses; rw [if_pos hend]
      | succ n =>
        obtain ⟨u', hu', hrunning⟩ := hwithin 1 (by omega) (by omega)
        rw [runPulses_succ 0 hp] at hu'
        cases hu'
        rw [if_neg (by simp [hrunning])]
        refine ih (by omega) (by omega) hpulses fun k hpos hlt => ?_
        obtain ⟨v, hv, hrunning⟩ := hwithin (k + 1) (by omega) (by omega)
        exact ⟨v, by rwa [runPulses_succ k hp] at hv, hrunning⟩

/-- A store that ends its instruction returns to fetch or halts (R98, R100). -/
theorem storeAtMar_finish_atBoundary (cfg : Config) (k : BitVec 4) (v : Byte) (s : State) :
    (storeAtMar cfg k v s finish).atBoundary = true := by
  rcases storeAtMar_cases cfg k v s finish with ⟨-, e⟩ | ⟨-, e⟩ <;> simp [e, State.atBoundary]

/-- An instruction's meaning ends at a boundary: STEP 0, or halted by HLT or by a fault (R98, R100). -/
theorem exec_atBoundary {i : Instr} {s t : State} (h : exec i s = .next t) : t.atBoundary = true := by
  cases i with
  | sta | stb | stx =>
    cases h; exact storeAtMar_finish_atBoundary ..
  | pushA => cases (execPushA_eq s).symm.trans h; simp [State.atBoundary]
  | call target => cases (execCall_eq target s).symm.trans h; simp [State.atBoundary]
  | _ => cases h; simp [State.atBoundary]

/-- A step of an instruction is pulses to the boundary: its pulses of R175 reach one, and none before. -/
theorem step_decoded_eq_pulsesToBoundary {s : State} {i : Instr} {rest : List Byte} (hrun : s.halted = false)
    (hfetch : s.stepCount = 0#4) (hdec : decode (bytesAtPc Ref.config s) = .ok (i, rest)) :
    step s = pulsesToBoundary Ref.config 16 s := by
  have hstep := step_eq_afterRows hrun hfetch hdec
  have hend := exec_atBoundary ((step_decoded hrun hfetch hdec).symm.trans hstep)
  have hmost := pulsesByR175_le i
  have hlen := Ref.length_wordsOf i
  obtain ⟨hpulses, hwithin⟩ := stepEqualsItsPulses s i rest hrun hfetch hdec
  rw [hstep] at hpulses ⊢
  refine (pulsesToBoundary_of_runPulses (by omega) (by omega) hpulses hend fun k hpos hlt => ?_).symm
  obtain ⟨u, hu, hrunning, hcount⟩ := hwithin k hpos hlt
  have hne : u.stepCount ≠ 0#4 := fun hzero => by simp [hzero] at hcount; omega
  exact ⟨u, hu, by simp [State.atBoundary, hrunning, hne]⟩

/-- Bytes at PC that the decoder rejects begin with an unknown opcode: none is truncated (R54, R68). -/
theorem unknownByR68_of_decode_error {s : State} {e : DecodeError}
    (hdec : decode (bytesAtPc Ref.config s) = .error e) : unknownByR68 (opcodeAt s) = true := by
  rcases decode_three_cases (opcodeAt s) (memRead Ref.config s (s.pc + 1#16)) (memRead Ref.config s (s.pc + 2#16))
    with ⟨i, rest, hok⟩ | ⟨hunknown, -⟩
  · cases hdec.symm.trans hok
  · exact hunknown

/-- A step on an unknown opcode is pulses to the boundary: the fetch, and the decode that halts (R86). -/
theorem step_unknown_eq_pulsesToBoundary {s : State} (hrun : s.halted = false) (hfetch : s.stepCount = 0#4)
    (hunknown : unknownByR68 (opcodeAt s) = true) : step s = pulsesToBoundary Ref.config 16 s := by
  obtain ⟨htakes, -⟩ := unknownOpcodeStep
  obtain ⟨hstep, hpulses⟩ := htakes s hrun hfetch hunknown
  rw [hstep]
  refine (pulsesToBoundary_of_runPulses (by omega) (by omega) hpulses rfl fun k hpos hlt => ?_).symm
  obtain rfl : k = 1 := by omega
  exact ⟨_, runPulses_succ 0 (pulse_fetch Ref.config_wellFormed hrun hfetch), by simp [State.atBoundary, hrun]⟩

/-- A step of a running machine is pulses to the boundary, at an instruction boundary and, by definition, within an
instruction. -/
theorem step_eq_pulsesToBoundary {s : State} (hrun : s.halted = false) :
    step s = pulsesToBoundary Ref.config 16 s := by
  by_cases hfetch : s.stepCount = 0#4
  · cases hdec : decode (bytesAtPc Ref.config s) with
    | ok decoded => exact step_decoded_eq_pulsesToBoundary hrun hfetch hdec
    | error e => exact step_unknown_eq_pulsesToBoundary hrun hfetch (unknownByR68_of_decode_error hdec)
  · exact step_within hrun hfetch

/-- Settles O34: `step_eq_pulsesToBoundary`, which needs no more than a machine that runs. -/
theorem stepIsPulsesToTheBoundary : Obligations.StepIsPulsesToTheBoundary :=
  fun _ _ hrun => step_eq_pulsesToBoundary hrun

/-! ### The step keeps a sound state sound -/

/-- A pulse of a running machine that does not reach a boundary goes on to the next step (R84, R85, R98). -/
theorem pulse_stepCount_of_not_atBoundary {cfg : Config} {s u : State} (hpulse : pulse cfg s = .next u)
    (hrun : s.halted = false) (hend : u.atBoundary = false) : u.stepCount = s.stepCount + 1#4 := by
  simp only [State.atBoundary, Bool.or_eq_false_iff, beq_eq_false_iff_ne] at hend
  obtain ⟨hrun', hne⟩ := hend
  obtain ⟨-, ⟨hhalt, -⟩ | ⟨-, hfetch, rfl⟩ | ⟨-, hdec, rfl⟩ | ⟨-, -, w, -, rfl⟩⟩ := pulse_cases hpulse
  · simp [hhalt] at hrun
  · simp [hfetch]
  · cases hdef : ControlTable.defined cfg.table (lo8 s.ir) with
    | true => rw [decodePulse_defined hdef, hdec]; rfl
    | false => simp [decodePulse_halted, hdef] at hrun'
  · rcases executePulse_stepCount_cases cfg w s with ⟨hhalt, -⟩ | hzero | ⟨-, hnext⟩
    · simp [hhalt] at hrun'
    · exact absurd hzero hne
    · exact hnext

/-- From a sound running state the pulses to the boundary reach one, for STEP has 16 values, and each keeps the
state sound (R23, R106, R108). -/
theorem exists_pulsesToBoundary_sound {cfg : Config} {n : Nat} {s : State} (hcfg : cfg.wellFormed = true)
    (h : s.Sound cfg) (hrun : s.halted = false) (hn : 16 ≤ s.stepCount.toNat + n) :
    ∃ t, pulsesToBoundary cfg n s = .next t ∧ t.Sound cfg ∧ t.atBoundary = true := by
  induction n generalizing s with
  | zero => have hstep := s.stepCount.isLt; omega
  | succ n ih =>
    obtain ⟨u, hpulse, hsound⟩ := exists_pulse_sound hcfg h
    simp only [pulsesToBoundary, hpulse]
    cases hend : u.atBoundary with
    | true => exact ⟨u, rfl, hsound, hend⟩
    | false =>
      have hstep := pulse_stepCount_of_not_atBoundary hpulse hrun hend
      obtain ⟨hrun', hne⟩ : u.halted = false ∧ u.stepCount ≠ 0#4 := by simpa [State.atBoundary] using hend
      exact ih hsound hrun' (by bv_omega)

/-- Settles O35: a halted machine is its own step; else pulses to the boundary, sound by `exists_pulse_sound`. -/
theorem stepKeepsSoundState : Obligations.StepKeepsSoundState := by
  intro s h
  cases hrun : s.halted with
  | true => exact ⟨s, step_halted hrun, h, .inl hrun⟩
  | false =>
    obtain ⟨t, ht, hsound, hend⟩ := exists_pulsesToBoundary_sound (n := 16) Ref.config_wellFormed h hrun (by omega)
    exact ⟨t, (step_eq_pulsesToBoundary hrun).trans ht, hsound, by simpa [State.atBoundary] using hend⟩

end Sys2Proof.Machine
end

section
/-! PROOFS. The load and store instructions of 41_load_store.md: what `exec` answers for each, and from there, by the
instruction's format, what its step and its pulses answer at an instruction boundary. -/
namespace Sys2Proof.Machine

/-! ### From `exec` to `takes` (R84, R85, R175) -/

/-- The state in which `exec` runs the instruction at PC: fetched and decoded, at step 2 (R85). -/
def decodedState (opc : Byte) (s : State) : State := { afterF0 opc s with stepCount := 2#4 }

theorem afterDecode_eq_decodedState {s : State} {i : Instr} {rest : List Byte}
    (hdec : decode (bytesAtPc Ref.config s) = .ok (i, rest)) :
    afterDecode Ref.config s = decodedState (opcodeOf i) s := afterDecode_decoded hdec

/-- Past an F1 operand PC is past the instruction (R63). -/
theorem decodedState_pc_add_one (opc : Byte) (s : State) : (decodedState opc s).pc + 1#16 = s.pc + 2#16 :=
  BitVec.add_assoc ..

/-- Past an F2 operand PC is past the instruction (R63). -/
theorem decodedState_pc_add_two (opc : Byte) (s : State) : (decodedState opc s).pc + 2#16 = s.pc + 3#16 :=
  BitVec.add_assoc ..

/-- An instruction whose bytes stand at PC takes R175's pulses, and its step and its pulses answer its `exec`. -/
theorem takes_of_exec {s t : State} {i : Instr} (rest : List Byte) (hrun : s.halted = false)
    (hfetch : s.stepCount = 0#4) (hbytes : encode i ++ rest = bytesAtPc Ref.config s)
    (hexec : exec i (decodedState (opcodeOf i) s) = .next t) : takes (pulsesByR175 i) s t := by
  have hdec : decode (bytesAtPc Ref.config s) = .ok (i, rest) := hbytes ▸ decode_encode i rest
  have hstep : step s = .next t := by
    rw [step_decoded hrun hfetch hdec, afterDecode_eq_decodedState hdec, hexec]
  obtain ⟨hpulses, -⟩ := stepEqualsItsPulses s i rest hrun hfetch hdec
  exact ⟨hstep, hpulses.trans hstep⟩

/-- `takes_of_exec` for an instruction without an operand (F0). -/
theorem takes_of_exec_f0 {s t : State} {i : Instr} (hrun : s.halted = false) (hfetch : s.stepCount = 0#4)
    (hop : opcodeAt s = opcodeOf i) (hoperand : operandBytes i = [])
    (hexec : exec i (decodedState (opcodeOf i) s) = .next t) : takes (pulsesByR175 i) s t := by
  refine takes_of_exec [imm8At s, memRead Ref.config s (s.pc + 2#16)] hrun hfetch ?_ hexec
  rw [encode, hoperand, ← hop]
  rfl

/-- `takes_of_exec` for an instruction whose operand is the byte after its opcode (F1, R64). -/
theorem takes_of_exec_f1 {s t : State} {i : Instr} (hrun : s.halted = false) (hfetch : s.stepCount = 0#4)
    (hop : opcodeAt s = opcodeOf i) (hoperand : operandBytes i = [imm8At s])
    (hexec : exec i (decodedState (opcodeOf i) s) = .next t) : takes (pulsesByR175 i) s t := by
  refine takes_of_exec [memRead Ref.config s (s.pc + 2#16)] hrun hfetch ?_ hexec
  rw [encode, hoperand, ← hop]
  rfl

/-- `takes_of_exec` for an instruction whose operand is the address after its opcode (F2, R65). -/
theorem takes_of_exec_f2 {s t : State} {i : Instr} (hrun : s.halted = false) (hfetch : s.stepCount = 0#4)
    (hop : opcodeAt s = opcodeOf i) (hoperand : operandBytes i = [lo8 (addr16At s), hi8 (addr16At s)])
    (hexec : exec i (decodedState (opcodeOf i) s) = .next t) : takes (pulsesByR175 i) s t := by
  refine takes_of_exec [] hrun hfetch ?_ hexec
  rw [encode, hoperand, ← hop, addr16At, lo8_catBytes, hi8_catBytes]
  rfl

/-! ### What `exec` answers for the loads (R109 to R112, R115) -/

theorem exec_ldiA (imm : Byte) (s : State) : exec (.ldiA imm) s = .next { s with
    mar := s.pc, a := zext16 imm, pc := s.pc + 1#16, stepCount := 0#4 } := rfl

theorem exec_ldiB (imm : Byte) (s : State) : exec (.ldiB imm) s = .next { s with
    mar := s.pc, b := zext16 imm, pc := s.pc + 1#16, stepCount := 0#4 } := rfl

theorem exec_lda (ea : Word) (s : State) : exec (.lda ea) s = .next { s with
    t := ea, mar := ea, a := zext16 (memRead Ref.config s ea), pc := s.pc + 2#16, stepCount := 0#4 } := rfl

theorem exec_ldb (ea : Word) (s : State) : exec (.ldb ea) s = .next { s with
    t := ea, mar := ea, b := zext16 (memRead Ref.config s ea), pc := s.pc + 2#16, stepCount := 0#4 } := rfl

theorem exec_ldx (s : State) : exec .ldx s = .next { s with
    mar := s.b, a := zext16 (memRead Ref.config s s.b), stepCount := 0#4 } := rfl

/-! ### What `exec` answers for the stores, by the space their address selects (R113, R114, R116) -/

/-- The last row of STA and STB at a RAM address stores the byte and returns to fetch (R41, R98). -/
theorem absoluteStore_ram {ea : Word} (hram : 0x8000 ≤ ea.toNat) (v : Byte) (s : State) :
    storeAtMar Ref.config 7#4 v (absoluteMode ea s) finish = { s with
      t := ea, mar := ea, pc := s.pc + 2#16, stepCount := 0#4,
      ram := writeCell s.ram (ea.toNat - 0x8000) v } :=
  Ref.storeAtMar_ram (s := absoluteMode ea s) hram ..

/-- The last row of STA and STB at a ROM address halts at its step, 7 (R42, R100). -/
theorem absoluteStore_rom {ea : Word} (hrom : ea.toNat < 0x8000) (v : Byte) (s : State) :
    storeAtMar Ref.config 7#4 v (absoluteMode ea s) finish = { s with
      t := ea, mar := ea, pc := s.pc + 2#16, stepCount := 7#4, halted := true,
      fault := some (.illegalWrite ea v) } :=
  Ref.storeAtMar_rom (s := absoluteMode ea s) hrom ..

theorem exec_sta_ram {ea : Word} (hram : 0x8000 ≤ ea.toNat) (s : State) : exec (.sta ea) s = .next { s with
    t := ea, mar := ea, pc := s.pc + 2#16, stepCount := 0#4,
    ram := writeCell s.ram (ea.toNat - 0x8000) (lo8 s.a) } :=
  congrArg Host.Outcome.next (absoluteStore_ram hram ..)

theorem exec_sta_rom {ea : Word} (hrom : ea.toNat < 0x8000) (s : State) : exec (.sta ea) s = .next { s with
    t := ea, mar := ea, pc := s.pc + 2#16, stepCount := 7#4, halted := true,
    fault := some (.illegalWrite ea (lo8 s.a)) } :=
  congrArg Host.Outcome.next (absoluteStore_rom hrom ..)

theorem exec_stb_ram {ea : Word} (hram : 0x8000 ≤ ea.toNat) (s : State) : exec (.stb ea) s = .next { s with
    t := ea, mar := ea, pc := s.pc + 2#16, stepCount := 0#4,
    ram := writeCell s.ram (ea.toNat - 0x8000) (lo8 s.b) } :=
  congrArg Host.Outcome.next (absoluteStore_ram hram ..)

theorem exec_stb_rom {ea : Word} (hrom : ea.toNat < 0x8000) (s : State) : exec (.stb ea) s = .next { s with
    t := ea, mar := ea, pc := s.pc + 2#16, stepCount := 7#4, halted := true,
    fault := some (.illegalWrite ea (lo8 s.b)) } :=
  congrArg Host.Outcome.next (absoluteStore_rom hrom ..)

theorem exec_stx_ram {s : State} (hram : 0x8000 ≤ s.b.toNat) : exec .stx s = .next { s with
    mar := s.b, stepCount := 0#4, ram := writeCell s.ram (s.b.toNat - 0x8000) (lo8 s.a) } :=
  congrArg Host.Outcome.next (Ref.storeAtMar_ram (s := indirectMode s) hram ..)

theorem exec_stx_rom {s : State} (hrom : s.b.toNat < 0x8000) : exec .stx s = .next { s with
    mar := s.b, stepCount := 3#4, halted := true, fault := some (.illegalWrite s.b (lo8 s.a)) } :=
  congrArg Host.Outcome.next (Ref.storeAtMar_rom (s := indirectMode s) hrom ..)

/-! ### The statements -/

/-- Settles O38: `exec` at the operand that stands at PC; what is left is PC past one operand byte. -/
theorem loadImmediateResults : Obligations.LoadImmediateResults := by
  refine ⟨exec_ldiA, exec_ldiB, fun s hrun hfetch hop => ?ldiA, fun s hrun hfetch hop => ?ldiB⟩
  case ldiA =>
    refine takes_of_exec_f1 (i := .ldiA (imm8At s)) hrun hfetch hop rfl ?_
    rw [exec_ldiA, decodedState_pc_add_one]; rfl
  case ldiB =>
    refine takes_of_exec_f1 (i := .ldiB (imm8At s)) hrun hfetch hop rfl ?_
    rw [exec_ldiB, decodedState_pc_add_one]; rfl

/-- Settles O39: `exec` at the address that stands at PC; fetch and decode leave the byte there as it was. -/
theorem loadAbsoluteResults : Obligations.LoadAbsoluteResults := by
  refine ⟨exec_lda, exec_ldb, fun s hrun hfetch hop => ?lda, fun s hrun hfetch hop => ?ldb⟩
  case lda =>
    refine takes_of_exec_f2 (i := .lda (addr16At s)) hrun hfetch hop rfl ?_
    rw [exec_lda, decodedState_pc_add_two]; rfl
  case ldb =>
    refine takes_of_exec_f2 (i := .ldb (addr16At s)) hrun hfetch hop rfl ?_
    rw [exec_ldb, decodedState_pc_add_two]; rfl

/-- Settles O40: `exec` at the address that stands at PC, in RAM and in ROM. -/
theorem storeAbsoluteResults : Obligations.StoreAbsoluteResults := by
  refine ⟨fun _ s h => exec_sta_ram h s, fun _ s h => exec_sta_rom h s, fun _ s h => exec_stb_ram h s,
    fun _ s h => exec_stb_rom h s, fun s hrun hfetch hop hram => ?staRam, fun s hrun hfetch hop hrom => ?staRom,
    fun s hrun hfetch hop hram => ?stbRam, fun s hrun hfetch hop hrom => ?stbRom⟩
  case staRam =>
    refine takes_of_exec_f2 (i := .sta (addr16At s)) hrun hfetch hop rfl ?_
    rw [exec_sta_ram hram, decodedState_pc_add_two]; rfl
  case staRom =>
    refine takes_of_exec_f2 (i := .sta (addr16At s)) hrun hfetch hop rfl ?_
    rw [exec_sta_rom hrom, decodedState_pc_add_two]; rfl
  case stbRam =>
    refine takes_of_exec_f2 (i := .stb (addr16At s)) hrun hfetch hop rfl ?_
    rw [exec_stb_ram hram, decodedState_pc_add_two]; rfl
  case stbRom =>
    refine takes_of_exec_f2 (i := .stb (addr16At s)) hrun hfetch hop rfl ?_
    rw [exec_stb_rom hrom, decodedState_pc_add_two]; rfl

/-- Settles O41: `exec` at the address in B, which fetch and decode leave as it was. -/
theorem indirectAccessResults : Obligations.IndirectAccessResults :=
  ⟨exec_ldx, fun _ => exec_stx_ram, fun _ => exec_stx_rom,
    fun _ hrun hfetch hop => takes_of_exec_f0 (i := .ldx) hrun hfetch hop rfl (exec_ldx _),
    fun s hrun hfetch hop hram => takes_of_exec_f0 (i := .stx) hrun hfetch hop rfl
      (exec_stx_ram (s := decodedState 0x08#8 s) hram),
    fun s hrun hfetch hop hrom => takes_of_exec_f0 (i := .stx) hrun hfetch hop rfl
      (exec_stx_rom (s := decodedState 0x08#8 s) hrom)⟩

end Sys2Proof.Machine
end

section
/-! PROOFS. The register moves of 42_move.md: what `exec` answers for each, and from there, all four being F0
instructions of one row, what its step and its pulses answer at an instruction boundary. -/
namespace Sys2Proof.Machine

/-! ### What `exec` answers for the moves (R117 to R120) -/

theorem exec_movAB (s : State) : exec .movAB s = .next { s with a := s.b, stepCount := 0#4 } := rfl

theorem exec_movBA (s : State) : exec .movBA s = .next { s with b := s.a, stepCount := 0#4 } := rfl

theorem exec_movASp (s : State) : exec .movASp s = .next { s with a := zext16 s.sp, stepCount := 0#4 } := rfl

theorem exec_movSpA (s : State) : exec .movSpA s = .next { s with sp := lo8 s.a, stepCount := 0#4 } := rfl

/-! ### The statement -/

/-- Settles O42: `exec` in the state after fetch and decode, which leave A, B and SP as they were. -/
theorem moveResults : Obligations.MoveResults :=
  ⟨exec_movAB, exec_movBA, exec_movASp, exec_movSpA,
    fun _ hrun hfetch hop => takes_of_exec_f0 (i := .movAB) hrun hfetch hop rfl (exec_movAB _),
    fun _ hrun hfetch hop => takes_of_exec_f0 (i := .movBA) hrun hfetch hop rfl (exec_movBA _),
    fun _ hrun hfetch hop => takes_of_exec_f0 (i := .movASp) hrun hfetch hop rfl (exec_movASp _),
    fun _ hrun hfetch hop => takes_of_exec_f0 (i := .movSpA) hrun hfetch hop rfl (exec_movSpA _)⟩

end Sys2Proof.Machine
end

section
/-! PROOFS. The ALU instructions of 43_alu.md: chained words (R134); and what `exec` answers for each instruction, from
`aluOperations`, and from there, all thirteen being F0 instructions of one row, what its step and its pulses answer at
an instruction boundary. -/
namespace Sys2Proof.Machine

/-! ### Chained words (R134) -/

/-- ADD, then ADC on its carry, adds 32-bit numbers. -/
theorem alu_add_adc (aHi aLo bHi bLo : Word) (cin : Bool) :
    (alu .adc aHi bHi (alu .add aLo bLo cin).carryOut).result.toNat * 2 ^ 16 +
        (alu .add aLo bLo cin).result.toNat =
      (aHi.toNat * 2 ^ 16 + aLo.toNat + (bHi.toNat * 2 ^ 16 + bLo.toNat)) % 2 ^ 32 ∧
    (alu .adc aHi bHi (alu .add aLo bLo cin).carryOut).carryOut =
      decide (2 ^ 32 ≤ aHi.toNat * 2 ^ 16 + aLo.toNat + (bHi.toNat * 2 ^ 16 + bLo.toNat)) := by
  obtain ⟨⟨hlo, hmid⟩, -⟩ := aluOperations aLo bLo cin
  obtain ⟨-, ⟨hhi, hout⟩, -⟩ := aluOperations aHi bHi (alu .add aLo bLo cin).carryOut
  rw [hhi, hout, hlo, hmid, BitVec.toNat_add, decide_eq_decide]
  by_cases hcarry : 2 ^ 16 ≤ aLo.toNat + bLo.toNat
  · rw [decide_eq_true hcarry, Bool.toNat_true]; omega
  · rw [decide_eq_false hcarry, Bool.toNat_false]; omega

/-- SUB, then SBC on its carry, subtracts 32-bit numbers; a carry of 1 means no borrow. -/
theorem alu_sub_sbc (aHi aLo bHi bLo : Word) (cin : Bool) :
    (alu .sbc aHi bHi (alu .sub aLo bLo cin).carryOut).result.toNat * 2 ^ 16 +
        (alu .sub aLo bLo cin).result.toNat =
      (aHi.toNat * 2 ^ 16 + aLo.toNat + 2 ^ 32 - (bHi.toNat * 2 ^ 16 + bLo.toNat)) % 2 ^ 32 ∧
    (alu .sbc aHi bHi (alu .sub aLo bLo cin).carryOut).carryOut =
      decide (bHi.toNat * 2 ^ 16 + bLo.toNat ≤ aHi.toNat * 2 ^ 16 + aLo.toNat) := by
  obtain ⟨-, -, ⟨hlo, hmid⟩, -⟩ := aluOperations aLo bLo cin
  obtain ⟨-, -, -, ⟨hhi, hout⟩, -⟩ := aluOperations aHi bHi (alu .sub aLo bLo cin).carryOut
  rw [hhi, hout, hlo, hmid, BitVec.toNat_sub, decide_eq_decide]
  by_cases hcarry : bLo.toNat ≤ aLo.toNat
  · rw [decide_eq_true hcarry, Bool.toNat_true]; omega
  · rw [decide_eq_false hcarry, Bool.toNat_false]; omega

/-- Settles O26: `alu_add_adc` and `alu_sub_sbc`. -/
theorem multiWordArithmeticChains : Obligations.MultiWordArithmeticChains := fun aHi aLo bHi bLo cin =>
  ⟨alu_add_adc aHi aLo bHi bLo cin, alu_sub_sbc aHi aLo bHi bLo cin⟩

/-! ### What `exec` answers for the ALU instructions (R121 to R133) -/

/-- The generic row of 43_alu.md, once the ALU's two outputs are known. -/
theorem aluToAccumulator_of_aluOut {op : AluOp} {s : State} {r : Word} {carry : Bool}
    (h : (s.aluOut op).result = r ∧ (s.aluOut op).carryOut = carry) : aluToAccumulator op s = .next { s with
      a := r, c := carry, z := decide (r = 0#16), stepCount := 0#4 } := by
  obtain ⟨rfl, rfl⟩ := h
  rfl

theorem exec_add (s : State) : exec .add s = .next { s with
    a := s.a + s.b, c := decide (2 ^ 16 ≤ s.a.toNat + s.b.toNat), z := decide (s.a + s.b = 0#16),
    stepCount := 0#4 } := by
  obtain ⟨hadd, -⟩ := aluOperations s.a s.b s.c
  exact aluToAccumulator_of_aluOut hadd

theorem exec_adc (s : State) : exec .adc s = .next { s with
    a := s.a + s.b + BitVec.ofNat 16 s.c.toNat, c := decide (2 ^ 16 ≤ s.a.toNat + s.b.toNat + s.c.toNat),
    z := decide (s.a + s.b + BitVec.ofNat 16 s.c.toNat = 0#16), stepCount := 0#4 } := by
  obtain ⟨-, ⟨hres, hcarry⟩, -⟩ := aluOperations s.a s.b s.c
  exact aluToAccumulator_of_aluOut ⟨BitVec.eq_of_toNat_eq (hres.trans (by simp)), hcarry⟩

theorem exec_sub (s : State) : exec .sub s = .next { s with
    a := s.a - s.b, c := decide (s.b.toNat ≤ s.a.toNat), z := decide (s.a - s.b = 0#16), stepCount := 0#4 } := by
  obtain ⟨-, -, hsub, -⟩ := aluOperations s.a s.b s.c
  exact aluToAccumulator_of_aluOut hsub

theorem exec_sbc (s : State) : exec .sbc s = .next { s with
    a := s.a - s.b - 1#16 + BitVec.ofNat 16 s.c.toNat, c := decide (s.b.toNat + 1 ≤ s.a.toNat + s.c.toNat),
    z := decide (s.a - s.b - 1#16 + BitVec.ofNat 16 s.c.toNat = 0#16), stepCount := 0#4 } := by
  obtain ⟨-, -, -, ⟨hres, hcarry⟩, -⟩ := aluOperations s.a s.b s.c
  exact aluToAccumulator_of_aluOut ⟨BitVec.eq_of_toNat_eq (hres.trans (by bv_omega)), hcarry⟩

theorem exec_and (s : State) : exec .and s = .next { s with
    a := s.a &&& s.b, z := decide (s.a &&& s.b = 0#16), stepCount := 0#4 } := rfl

theorem exec_or (s : State) : exec .or s = .next { s with
    a := s.a ||| s.b, z := decide (s.a ||| s.b = 0#16), stepCount := 0#4 } := rfl

theorem exec_xor (s : State) : exec .xor s = .next { s with
    a := s.a ^^^ s.b, z := decide (s.a ^^^ s.b = 0#16), stepCount := 0#4 } := rfl

theorem exec_not (s : State) : exec .not s = .next { s with
    a := 0xFFFF#16 - s.a, z := decide (0xFFFF#16 - s.a = 0#16), stepCount := 0#4 } :=
  aluToAccumulator_of_aluOut ⟨(BitVec.allOnes_sub_eq_not s.a).symm, rfl⟩

theorem exec_shl (s : State) : exec .shl s = .next { s with
    a := s.a <<< 1, c := s.a.msb, z := decide (s.a <<< 1 = 0#16), stepCount := 0#4 } := by
  obtain ⟨-, -, -, -, -, -, -, -, hshl, -⟩ := aluOperations s.a s.b s.c
  exact aluToAccumulator_of_aluOut hshl

theorem exec_shr (s : State) : exec .shr s = .next { s with
    a := s.a >>> 1, c := decide (s.a.toNat % 2 = 1), z := decide (s.a >>> 1 = 0#16), stepCount := 0#4 } := by
  obtain ⟨-, -, -, -, -, -, -, -, -, hshr, -⟩ := aluOperations s.a s.b s.c
  exact aluToAccumulator_of_aluOut hshr

theorem exec_inc (s : State) : exec .inc s = .next { s with
    a := s.a + 1#16, c := decide (s.a = 0xFFFF#16), z := decide (s.a + 1#16 = 0#16), stepCount := 0#4 } := by
  obtain ⟨-, -, -, -, -, -, -, -, -, -, hinc, -⟩ := aluOperations s.a s.b s.c
  exact aluToAccumulator_of_aluOut hinc

theorem exec_dec (s : State) : exec .dec s = .next { s with
    a := s.a - 1#16, c := decide (s.a ≠ 0#16), z := decide (s.a - 1#16 = 0#16), stepCount := 0#4 } := by
  obtain ⟨-, -, -, -, -, -, -, -, -, -, -, hdec⟩ := aluOperations s.a s.b s.c
  exact aluToAccumulator_of_aluOut hdec

/-- CMP: the flags of SUB, whose result is 0 exactly on equal operands. -/
theorem exec_cmp (s : State) : exec .cmp s = .next { s with
    c := decide (s.b.toNat ≤ s.a.toNat), z := decide (s.a = s.b), stepCount := 0#4 } := by
  obtain ⟨-, -, ⟨hres, hcarry⟩, -⟩ := aluOperations s.a s.b s.c
  have hzero : decide (s.a = s.b) = decide ((s.aluOut .sub).result = 0#16) :=
    decide_eq_decide.mpr (by rw [State.aluOut, hres]; exact sub_eq_zero.symm)
  rw [← hcarry, hzero]
  rfl

/-! ### The statements -/

/-- Settles O43: `exec` in the state after fetch and decode, which leave A, B and C as they were. -/
theorem addSubtractResults : Obligations.AddSubtractResults :=
  ⟨exec_add, exec_adc, exec_sub, exec_sbc,
    fun _ hrun hfetch hop => takes_of_exec_f0 (i := .add) hrun hfetch hop rfl (exec_add _),
    fun _ hrun hfetch hop => takes_of_exec_f0 (i := .adc) hrun hfetch hop rfl (exec_adc _),
    fun _ hrun hfetch hop => takes_of_exec_f0 (i := .sub) hrun hfetch hop rfl (exec_sub _),
    fun _ hrun hfetch hop => takes_of_exec_f0 (i := .sbc) hrun hfetch hop rfl (exec_sbc _)⟩

/-- Settles O44: as O43; the ALU passes C through (R96). -/
theorem logicResults : Obligations.LogicResults :=
  ⟨exec_and, exec_or, exec_xor, exec_not,
    fun _ hrun hfetch hop => takes_of_exec_f0 (i := .and) hrun hfetch hop rfl (exec_and _),
    fun _ hrun hfetch hop => takes_of_exec_f0 (i := .or) hrun hfetch hop rfl (exec_or _),
    fun _ hrun hfetch hop => takes_of_exec_f0 (i := .xor) hrun hfetch hop rfl (exec_xor _),
    fun _ hrun hfetch hop => takes_of_exec_f0 (i := .not) hrun hfetch hop rfl (exec_not _)⟩

/-- Settles O45: as O43, the operand being A alone. -/
theorem shiftAndCountResults : Obligations.ShiftAndCountResults :=
  ⟨exec_shl, exec_shr, exec_inc, exec_dec,
    fun _ hrun hfetch hop => takes_of_exec_f0 (i := .shl) hrun hfetch hop rfl (exec_shl _),
    fun _ hrun hfetch hop => takes_of_exec_f0 (i := .shr) hrun hfetch hop rfl (exec_shr _),
    fun _ hrun hfetch hop => takes_of_exec_f0 (i := .inc) hrun hfetch hop rfl (exec_inc _),
    fun _ hrun hfetch hop => takes_of_exec_f0 (i := .dec) hrun hfetch hop rfl (exec_dec _)⟩

/-- Settles O46: as O43, A being kept. -/
theorem compareResults : Obligations.CompareResults :=
  ⟨exec_cmp, fun _ hrun hfetch hop => takes_of_exec_f0 (i := .cmp) hrun hfetch hop rfl (exec_cmp _)⟩

end Sys2Proof.Machine
end

section
/-! PROOFS. The control transfers of 44_control.md: the jumps by their condition, then CALL and RET by the two bytes of
the return address in the stack window. -/
namespace Sys2Proof.Machine

/-! ### The jumps (R91, R135 to R139) -/

theorem condHolds_always (c z : Bool) : condHolds .always c z = true ↔ True := iff_of_true rfl trivial

theorem condHolds_c (c z : Bool) : condHolds .c c z = true ↔ c = true := Iff.rfl

theorem condHolds_nc (c z : Bool) : condHolds .nc c z = true ↔ c = false := by rw [condHolds, Bool.not_eq_true']

theorem condHolds_z (c z : Bool) : condHolds .z c z = true ↔ z = true := Iff.rfl

theorem condHolds_nz (c z : Bool) : condHolds .nz c z = true ↔ z = false := by rw [condHolds, Bool.not_eq_true']

/-- The shared shape of the jumps as one state, `p` being what the jump's condition says. -/
theorem jumpWhen_eq {cond : Cond} {s : State} {p : Prop} [Decidable p] (hcond : condHolds cond s.c s.z = true ↔ p)
    (target : Word) : jumpWhen cond target s = .next { s with
      t := target, mar := s.pc + 1#16, pc := if p then target else s.pc + 2#16, stepCount := 0#4 } := by
  rw [jumpWhen, if_congr hcond rfl rfl]
  rfl

/-- A jump at an instruction boundary, taken or not: fetch and decode leave the flags as they were. -/
theorem takes_of_jumpWhen {cond : Cond} {i : Instr} {s : State} {p : Prop} [Decidable p]
    (hcond : condHolds cond s.c s.z = true ↔ p) (hrun : s.halted = false) (hfetch : s.stepCount = 0#4)
    (hop : opcodeAt s = opcodeOf i) (hoperand : operandBytes i = [lo8 (addr16At s), hi8 (addr16At s)])
    (hexec : exec i = jumpWhen cond (addr16At s)) : takes (pulsesByR175 i) s
      { afterF2 (opcodeOf i) s with pc := if p then addr16At s else s.pc + 3#16 } := by
  refine takes_of_exec_f2 hrun hfetch hop hoperand ?_
  rw [hexec, jumpWhen_eq (s := decodedState (opcodeOf i) s) hcond, decodedState_pc_add_one, decodedState_pc_add_two]
  rfl

/-- Settles O47: `jumpWhen` under each of the five conditions. -/
theorem jumpResults : Obligations.JumpResults :=
  ⟨fun target s => jumpWhen_eq (condHolds_always s.c s.z) target,
    fun target s => jumpWhen_eq (condHolds_c s.c s.z) target,
    fun target s => jumpWhen_eq (condHolds_nc s.c s.z) target,
    fun target s => jumpWhen_eq (condHolds_z s.c s.z) target,
    fun target s => jumpWhen_eq (condHolds_nz s.c s.z) target,
    fun s hrun hfetch hop => takes_of_jumpWhen (i := .jmp (addr16At s)) (condHolds_always ..) hrun hfetch hop rfl rfl,
    fun s hrun hfetch hop => takes_of_jumpWhen (i := .jc (addr16At s)) (condHolds_c ..) hrun hfetch hop rfl rfl,
    fun s hrun hfetch hop => takes_of_jumpWhen (i := .jnc (addr16At s)) (condHolds_nc ..) hrun hfetch hop rfl rfl,
    fun s hrun hfetch hop => takes_of_jumpWhen (i := .jz (addr16At s)) (condHolds_z ..) hrun hfetch hop rfl rfl,
    fun s hrun hfetch hop => takes_of_jumpWhen (i := .jnz (addr16At s)) (condHolds_nz ..) hrun hfetch hop rfl rfl⟩

/-! ### The stack window under the default configuration (R46 to R49) -/

/-- A read at a stack address depends on RAM alone. -/
theorem Ref.memRead_stackAddress (s : State) (sp : Byte) :
    memRead Ref.config s (stackAddress Ref.config sp) = readCell s.ram (0x7F00 + sp.toNat) := by
  obtain ⟨-, hdecode, -⟩ := stackWindowIsRam
  rw [memRead, hdecode]

theorem Ref.stackAddress_inj {sp sp' : Byte} :
    stackAddress Ref.config sp = stackAddress Ref.config sp' ↔ sp = sp' := by
  refine ⟨fun h => BitVec.eq_of_toNat_eq ?_, congrArg _⟩
  simpa [Ref.stackAddress_toNat] using congrArg BitVec.toNat h

/-- A store in the stack window keeps the form of RAM. -/
theorem stackStore_wf {m : Memory} (sp v : Byte) (hwf : m.wf = true) :
    (writeCell m (0x7F00 + sp.toNat) v).wf = true := by
  have hsp := sp.isLt
  exact writeCell_wf v hwf (by rw [imageSize]; omega)

/-- After a store at a stack address its byte reads there, and every other address reads as before. -/
theorem Ref.memRead_stackStore {s : State} (sp v : Byte) (x : Word) (hwf : s.ram.wf = true) :
    memRead Ref.config { s with ram := writeCell s.ram (0x7F00 + sp.toNat) v } x =
      if x = stackAddress Ref.config sp then v else memRead Ref.config s x := by
  split
  case isTrue hx => rw [hx, Ref.memRead_stackAddress]; exact readCell_writeCell_same _ v hwf
  case isFalse hx => exact Ref.memRead_stackStore_other v hx

/-! ### CALL (R140) -/

theorem exec_call (target : Word) (s : State) : exec (.call target) s = .next { s with
    t := target, sp := s.sp - 2#8, mar := 0xFF00#16 + zext16 (s.sp - 2#8), pc := target,
    stepCount := 0#4, ram := pushedReturn s (s.pc + 2#16) } := by
  have hsp : s.sp - 1#8 - 1#8 = s.sp - 2#8 := BitVec.sub_sub ..
  refine (execCall_eq target s).trans ?_
  rw [hsp]
  rfl

/-- The two stores of CALL are at different addresses, also where SP wraps. -/
theorem memRead_pushedReturn (s : State) (ret x : Word) (hwf : s.ram.wf = true) :
    memRead Ref.config { s with ram := pushedReturn s ret } x =
      if x = stackAddress Ref.config (s.sp - 1#8) then hi8 ret
      else if x = stackAddress Ref.config (s.sp - 2#8) then lo8 ret
      else memRead Ref.config s x := by
  have hlow := Ref.memRead_stackStore
    (s := { s with ram := writeCell s.ram (0x7F00 + (s.sp - 1#8).toNat) (hi8 ret) })
    (s.sp - 2#8) (lo8 ret) x (stackStore_wf _ _ hwf)
  have hne : s.sp - 1#8 ≠ s.sp - 2#8 := by bv_omega
  rw [pushedReturn, hlow, Ref.memRead_stackStore _ _ _ hwf]
  by_cases hx : x = stackAddress Ref.config (s.sp - 1#8)
  · have hx' : x ≠ stackAddress Ref.config (s.sp - 2#8) := by rwa [hx, Ne, Ref.stackAddress_inj]
    rw [if_neg hx', if_pos hx, if_pos hx]
  · rw [if_neg hx, if_neg hx]

/-- Settles O48: `exec` at the target that stands at PC, and `memRead_pushedReturn`. -/
theorem callResults : Obligations.CallResults := by
  refine ⟨exec_call, fun s hrun hfetch hop => ?takes, memRead_pushedReturn⟩
  case takes =>
    refine takes_of_exec_f2 (i := .call (addr16At s)) hrun hfetch hop rfl ?_
    rw [exec_call, decodedState_pc_add_two]; rfl

/-! ### RET (R141) -/

theorem exec_ret (s : State) : exec .ret s = .next { s with
    t := poppedReturn s, sp := s.sp + 2#8, mar := 0xFF00#16 + zext16 (s.sp + 1#8),
    pc := poppedReturn s, stepCount := 0#4 } := by
  have hsp : s.sp + 1#8 + 1#8 = s.sp + 2#8 := BitVec.add_assoc ..
  rw [← hsp]
  rfl

/-- Settles O49: `exec` in the state after fetch and decode, which leave memory and SP as they were. -/
theorem returnResults : Obligations.ReturnResults :=
  ⟨exec_ret, fun _ hrun hfetch hop => takes_of_exec_f0 (i := .ret) hrun hfetch hop rfl (exec_ret _)⟩

/-! ### RET after CALL (R49) -/

/-- What is pushed at SP is popped at SP - 2, in any state with the RAM of the push. -/
theorem poppedReturn_of_pushedReturn {s u : State} {ret : Word} (hwf : s.ram.wf = true)
    (hram : u.ram = pushedReturn s ret) (hsp : u.sp = s.sp - 2#8) : poppedReturn u = ret := by
  have hread (sp : Byte) : memRead Ref.config u (stackAddress Ref.config sp) =
      if sp = s.sp - 1#8 then hi8 ret else if sp = s.sp - 2#8 then lo8 ret
      else memRead Ref.config s (stackAddress Ref.config sp) := by
    simp only [← Ref.stackAddress_inj, ← memRead_pushedReturn s ret _ hwf]
    rw [Ref.memRead_stackAddress, Ref.memRead_stackAddress, hram]
  have hhigh : memRead Ref.config u (stackAddress Ref.config (u.sp + 1#8)) = hi8 ret := by
    rw [hread, if_pos (by rw [hsp]; bv_omega)]
  have hlow : memRead Ref.config u (stackAddress Ref.config u.sp) = lo8 ret := by
    rw [hread, if_neg (by rw [hsp]; bv_omega), if_pos hsp]
  calc poppedReturn u
    _ = catBytes (hi8 ret) (lo8 ret) := congrArg₂ catBytes hhigh hlow
    _ = ret := catBytes_hi8_lo8 ret

/-- Settles O58: RET pops the address CALL pushed, and its + 2 undoes CALL's - 2 modulo 2^8. -/
theorem returnUndoesCall : Obligations.ReturnUndoesCall := by
  intro s t u target hwf hcall hram hsp
  cases (exec_call target s).symm.trans hcall
  refine ⟨_, exec_ret u, poppedReturn_of_pushedReturn hwf hram hsp, ?_⟩
  calc u.sp + 2#8
    _ = s.sp - 2#8 + 2#8 := by rw [hsp]
    _ = s.sp := BitVec.sub_add_cancel ..

end Sys2Proof.Machine
end

section
/-! PROOFS. The stack instructions of 45_stack.md: what `exec` answers for PUSH A and POP A, and from there, both being
F0 instructions, what their steps and their pulses answer at an instruction boundary; then POP A after PUSH A. -/
namespace Sys2Proof.Machine

/-! ### What `exec` answers for PUSH A and POP A (R143, R144) -/

/-- PUSH A stores in the stack window, which is RAM, so it never faults (R48). -/
theorem exec_pushA (s : State) : exec .pushA s = .next { s with
    sp := s.sp - 1#8, mar := 0xFF00#16 + zext16 (s.sp - 1#8),
    ram := writeCell s.ram (0x7F00 + (s.sp - 1#8).toNat) (lo8 s.a), stepCount := 0#4 } := execPushA_eq s

theorem exec_popA (s : State) : exec .popA s = .next { s with
    mar := 0xFF00#16 + zext16 s.sp, sp := s.sp + 1#8,
    a := zext16 (memRead Ref.config s (0xFF00#16 + zext16 s.sp)), stepCount := 0#4 } := rfl

/-- Settles O50: `exec` in the state after fetch and decode, which leave A, SP and memory as they were. -/
theorem pushPopResults : Obligations.PushPopResults :=
  ⟨exec_pushA, exec_popA,
    fun _ hrun hfetch hop => takes_of_exec_f0 (i := .pushA) hrun hfetch hop rfl (exec_pushA _),
    fun _ hrun hfetch hop => takes_of_exec_f0 (i := .popA) hrun hfetch hop rfl (exec_popA _)⟩

/-! ### POP A after PUSH A (R49) -/

/-- In any state with the RAM of a store in the stack window, the byte stored reads at its stack address. -/
theorem Ref.memRead_stackAddress_of_stackStore {m : Memory} {u : State} {sp v : Byte} (hwf : m.wf = true)
    (hram : u.ram = writeCell m (0x7F00 + sp.toNat) v) : memRead Ref.config u (stackAddress Ref.config sp) = v := by
  rw [Ref.memRead_stackAddress, hram]
  exact readCell_writeCell_same _ v hwf

/-- Settles O59: POP A reads the byte PUSH A stored, and its + 1 undoes PUSH A's - 1 modulo 2^8. -/
theorem popUndoesPush : Obligations.PopUndoesPush := by
  intro s t u hwf hpush hram hsp
  cases (exec_pushA s).symm.trans hpush
  have hpopped : memRead Ref.config u (stackAddress Ref.config u.sp) = lo8 s.a :=
    Ref.memRead_stackAddress_of_stackStore hwf (by rw [hram, hsp])
  refine ⟨_, exec_popA u, congrArg zext16 hpopped, ?_⟩
  calc u.sp + 1#8
    _ = s.sp - 1#8 + 1#8 := by rw [hsp]
    _ = s.sp := BitVec.sub_add_cancel ..

end Sys2Proof.Machine
end

section
/-! PROOFS. The system instructions of 46_system.md: what `exec` answers for NOP and HLT, and from there, both being F0
instructions of one row, what their steps and their pulses answer at an instruction boundary. -/
namespace Sys2Proof.Machine

/-! ### What `exec` answers for NOP and HLT (R145, R146) -/

theorem exec_nop (s : State) : exec .nop s = .next { s with stepCount := 0#4 } := rfl

/-- HLT does not return to fetch: STEP stays, and so does FAULT. -/
theorem exec_hlt (s : State) : exec .hlt s = .next { s with halted := true } := rfl

/-! ### The statement -/

/-- Settles O51: `exec` in the state after fetch and decode, whose STEP, 2, NOP takes to 0 and HLT keeps. -/
theorem nopAndHaltResults : Obligations.NopAndHaltResults :=
  ⟨exec_nop, exec_hlt,
    fun _ hrun hfetch hop => takes_of_exec_f0 (i := .nop) hrun hfetch hop rfl (exec_nop _),
    fun _ hrun hfetch hop => takes_of_exec_f0 (i := .hlt) hrun hfetch hop rfl (exec_hlt _)⟩

end Sys2Proof.Machine
end

section
/-! PROOFS. The errors of 60_exceptions.md: an image of another size at construction, and what an instruction can do to
HALTED and FAULT. -/
namespace Sys2Proof.Machine

/-- Settles O2: the configuration is accepted, so the size is what construction answers with. -/
theorem wrongImageSizeFails : Obligations.WrongImageSizeFails := by
  intro cfg image debug hcfg hsize
  have hsize' : image.length ≠ imageSize := hsize
  rw [State.construct, hcfg, Bool.not_true, if_neg Bool.false_ne_true, if_pos hsize']

/-! ### HALTED and FAULT after an instruction -/

/-- A store that ends its instruction either goes to a ROM address or leaves HALTED and FAULT (R42, R100). -/
theorem Ref.storeAtMar_finish_errors (k : BitVec 4) (v : Byte) (s : State) :
    ((storeAtMar Ref.config k v s finish).fault = s.fault ∧
      (storeAtMar Ref.config k v s finish).halted = s.halted) ∨ s.mar.toNat < 0x8000 := by
  rcases Nat.lt_or_ge s.mar.toNat 0x8000 with hrom | hram
  · exact .inr hrom
  · rw [Ref.storeAtMar_ram hram]; exact .inl ⟨rfl, rfl⟩

/-- An instruction leaves HALTED and FAULT, or it is HLT, which leaves FAULT, or a store to ROM. PUSH A and CALL store
in the stack window, which is RAM (R48, R146, R149, R151). -/
theorem exec_errors_cases {i : Instr} {s t : State} (h : exec i s = .next t) :
    (t.fault = s.fault ∧ t.halted = s.halted) ∨ (i = .hlt ∧ t.fault = s.fault) ∨
      ∃ ea, storeAddress i s = some ea ∧ ea.toNat < 0x8000 := by
  cases i with
  | sta ea | stb ea =>
    cases h
    exact (Ref.storeAtMar_finish_errors _ _ (absoluteMode ea s)).imp_right fun hrom => .inr ⟨ea, rfl, hrom⟩
  | stx =>
    cases h
    exact (Ref.storeAtMar_finish_errors _ _ (indirectMode s)).imp_right fun hrom => .inr ⟨s.b, rfl, hrom⟩
  | hlt => cases h; exact .inr (.inl ⟨rfl, rfl⟩)
  | add | adc | sub | sbc | and | or | xor | not | shl | shr | inc | dec =>
    obtain ⟨-, -, -, -, -, -, -, hfault, -, hhalted, -, -⟩ := aluToAccumulator_frame h
    exact .inl ⟨hfault, hhalted⟩
  | pushA => cases (exec_pushA s).symm.trans h; exact .inl ⟨rfl, rfl⟩
  | call target => cases (exec_call target s).symm.trans h; exact .inl ⟨rfl, rfl⟩
  | _ => cases h; exact .inl ⟨rfl, rfl⟩

/-- Settles O57, by `exec_errors_cases`. -/
theorem onlyRomStoresFault : Obligations.OnlyRomStoresFault := by
  intro i s t h
  rcases exec_errors_cases h with ⟨hfault, hhalted⟩ | ⟨hhlt, hfault⟩ | hstore
  · exact ⟨fun hne => absurd hfault hne, fun hrun hhalt => by simp [hhalted, hrun] at hhalt⟩
  · exact ⟨fun hne => absurd hfault hne, fun _ _ => .inl hhlt⟩
  · exact ⟨fun _ => hstore, fun _ _ => .inr hstore⟩

end Sys2Proof.Machine
end

section
/-! PROOFS. The construction state (70_reset_and_hazards.md R166): what an accepted construction answers, that it is
sound, and that external reset gives it again after any pulses (R168). -/
namespace Sys2Proof.Machine

/-- Construction that answers a state was given a well-formed configuration and an image of 65,535 bytes, and its
answer is the all-zero state over that image (R150, R166). -/
theorem construct_eq_next {cfg : Config} {image : List Byte} {debug : Bool} {s : State}
    (h : State.construct cfg image debug = .next s) :
    cfg.wellFormed = true ∧ image.length = imageSize ∧ s = State.ofRom (Memory.ofBytes image) := by
  unfold State.construct at h
  split at h
  next => cases h
  next hcfg =>
    split at h
    next => cases h
    next hsize => cases h; exact ⟨by simpa using hcfg, not_not.mp hsize, rfl⟩

/-- The all-zero state over a ROM image in canonical form is sound: RAM is empty, no fault is recorded, and STEP is 0,
so that nothing is asked of IR and of the control table. -/
theorem ofRom_sound {rom : Memory} (cfg : Config) (hrom : rom.wf = true) : (State.ofRom rom).Sound cfg where
  romForm := hrom
  ramForm := rfl
  ramReach := by simp
  faultHalts hfault := absurd rfl hfault
  faultOrigin := rfl
  irExtended hdec := absurd hdec (by simp)
  rowExists hexec := absurd hexec (by simp)

/-- Settles O3: reset rebuilds the construction state from the ROM image, which no pulse changes. -/
theorem externalResetRestoresConstruction : Obligations.ExternalResetRestoresConstruction := by
  intro cfg image debug n start s hstart hrun
  obtain ⟨-, -, rfl⟩ := construct_eq_next hstart
  have hrom : s.rom = Memory.ofBytes image := runPulses_keeps State.rom (fun _ _ => pulse_rom) hrun
  rw [State.externalReset_eq, hrom]

/-- Settles O23: both states are all zero over a ROM image in canonical form. -/
theorem constructionIsSound : Obligations.ConstructionIsSound := by
  refine ⟨fun cfg image debug s h => ?_, ofRom_sound Ref.config rfl⟩
  obtain ⟨-, hsize, rfl⟩ := construct_eq_next h
  exact ofRom_sound cfg (ofBytes_wf hsize.le)

end Sys2Proof.Machine
end
